-- ==== Sys2Proof/Word.lean ====
section
/-!
DEFINITION. The bit-vector types of the block: a byte, a 16-bit and a 32-bit field, a 12-bit register identifier
(00_scope.md R10, R11). Every value is unsigned (30_encoding.md R75, 41_frame.md R118), so wrapping arithmetic on them
is never used; counters and indexes are natural numbers.
-/

namespace Sys2Proof

/-- A byte is 8 bits (00_scope.md R11). -/
abbrev Byte := BitVec 8

/-- A 16-bit field: a register value, a checksum, a process-data half word. -/
abbrev Word16 := BitVec 16

/-- A 32-bit field: the service sub-frame as one number, or an inbound counter. -/
abbrev Word32 := BitVec 32

/-- A 12-bit register identifier, ADDR_BITS of 00_scope.md R10. -/
abbrev RegAddr := BitVec 12

end Sys2Proof
end

