-- ==== Sys2Proof/Config.lean ====
section
/-!
DEFINITION. The parameters of the block (00_scope.md R10): the fixed ones as constants, the OPEN ones as the record
`Params` that every context carries for its life (70_reset_and_hazards.md R200), and the opaque constants the context
after reset takes them from. Nothing in Lean can evaluate an opaque constant, so no claim about the reset state can
rest on a value of an OPEN parameter beyond its stated bound.
-/

namespace Sys2Proof

/-- N_FRAME: both frames are 26 bytes long (00_scope.md R10, 30_encoding.md R70, 90_conflicts.md C1). -/
abbrev nFrame : Nat := 26

/-- CRC_LEN: the checksum is the last 2 bytes of a frame (00_scope.md R10). -/
abbrev crcLen : Nat := 2

/-- SDC_LEN: the service sub-frame is the first 4 bytes of a frame (00_scope.md R10, 30_encoding.md R71). -/
abbrev sdcLen : Nat := 4

/-- The bytes a checksum covers, 0 to N_FRAME-3 (40_checksum.md R101). -/
abbrev nCovered : Nat := 24

/-- BUSY_TIMEOUT: "a fixed threshold (10 cycles)" (00_scope.md R10, 42_scheduler.md R121). -/
abbrev busyTimeout : Nat := 10

/-- The four levels the document names for diagnostics (60_exceptions.md R173). -/
inductive Severity where
  | error
  | warning
  | info
  | verbose
  deriving DecidableEq, Repr, Inhabited

/-- The five kinds of diagnostic event (60_exceptions.md R172). -/
inductive DiagKind where
  | setupFailure
  | crcMismatch
  | crcRecovered
  | sdcTimeout
  | sdcError
  deriving DecidableEq, Repr

/-- DIAG_LEVEL as plain data: one level for each diagnostic kind (00_scope.md R10, 60_exceptions.md R173). -/
structure DiagLevels where
  setupFailure : Severity
  crcMismatch : Severity
  crcRecovered : Severity
  sdcTimeout : Severity
  sdcError : Severity
  deriving DecidableEq, Repr, Inhabited

/-- The level a `DiagLevels` gives a kind. -/
def DiagLevels.level (t : DiagLevels) : DiagKind → Severity
  | .setupFailure => t.setupFailure
  | .crcMismatch => t.crcMismatch
  | .crcRecovered => t.crcRecovered
  | .sdcTimeout => t.sdcTimeout
  | .sdcError => t.sdcError

/-- The OPEN parameters of one context, fixed for its life (00_scope.md R10; 70_reset_and_hazards.md R200). -/
structure Params where
  /-- SDC_CAPACITY, natural number ≥ 1 (92_eei_decisions.md D8). -/
  sdcCapacity : Nat
  /-- BUSY_SAT, natural number ≥ BUSY_TIMEOUT (92_eei_decisions.md D9). -/
  busySat : Nat
  /-- CRCFAIL_SAT, natural number ≥ 1 (92_eei_decisions.md D10). -/
  crcFailSat : Nat
  /-- DIAG_LEVEL (92_eei_decisions.md D20). -/
  diagLevels : DiagLevels
  deriving DecidableEq, Repr

/-- The constraints of 00_scope.md R10 on the OPEN parameters. -/
abbrev Params.Wf (p : Params) : Prop :=
  1 ≤ p.sdcCapacity ∧ busyTimeout ≤ p.busySat ∧ 1 ≤ p.crcFailSat

/-- How far SDC_CAPACITY lies above its least value 1: OPEN, any natural number (log entry 1). -/
opaque Config.capacityAboveMin : Nat

/-- How far BUSY_SAT lies above its least value BUSY_TIMEOUT: OPEN, any natural number (log entry 1). -/
opaque Config.busySatAboveMin : Nat

/-- How far CRCFAIL_SAT lies above its least value 1: OPEN, any natural number (log entry 1). -/
opaque Config.crcFailSatAboveMin : Nat

/-- DIAG_LEVEL: OPEN, any assignment of levels to kinds (log entry 1). -/
opaque Config.diagLevels : DiagLevels

/-- The parameters the context has after reset: every value that 00_scope.md R10 allows, none chosen. -/
def Config.params : Params where
  sdcCapacity := Config.capacityAboveMin + 1
  busySat := Config.busySatAboveMin + busyTimeout
  crcFailSat := Config.crcFailSatAboveMin + 1
  diagLevels := Config.diagLevels

end Sys2Proof
end

