-- ==== Sys2Proof/Syntax.lean ====
section
/-!
DEFINITION. The operations of the block as data: one constructor of `Instr` per row of spec/opcode_table.json, with the
operands its rule gives it. Seven rows are service sub-frame kinds (30_encoding.md R76); the others are port operations
(30_encoding.md R77). An operand the host may get wrong (a slot, a count, a field's value, an offset, a byte) is a natural
number, since the rule that reads it says which values it refuses (45_host.md R150).
-/

namespace Sys2Proof

/-- The direction of a frame; it alone selects the format (30_encoding.md R82). -/
inductive Direction where
  /-- OUT: master to peripheral. -/
  | outbound
  /-- IN: peripheral to master. -/
  | inbound
  deriving DecidableEq, Repr

/-- SdcRec: the service sub-frame's fields (41_frame.md, "Records used"). -/
structure SdcRec where
  value : Word16
  address : RegAddr
  write : Bool
  error : Bool
  reserved : BitVec 2
  deriving DecidableEq, Repr

/-- OutRec: the outbound frame's fields (30_encoding.md R72; 41_frame.md). -/
structure OutRec where
  sdc : SdcRec
  control : Byte
  ledMask : Byte
  ledValue : Byte
  dout : Byte
  pwmDiv1 : Word16
  pwmDc1 : Word16
  pwmDc2 : Word16
  pwmDc3 : Word16
  pwmDiv2 : Word16
  pwmDc4 : Word16
  aout1 : Word16
  aout2 : Word16
  deriving DecidableEq, Repr

/-- InRec: the inbound frame's fields (30_encoding.md R73; 41_frame.md). -/
structure InRec where
  sdc : SdcRec
  status : Byte
  reserved16 : Word16
  din : Byte
  cnt1 : Word32
  cnt2 : Word32
  cnt3 : Word32
  ain1 : Word16
  ain2 : Word16
  deriving DecidableEq, Repr

/-- The record the host gives H.CONFIG, before the checks of 45_host.md R154: every field a natural number. -/
structure RawItem where
  address : Nat
  value : Nat
  factor : Nat
  factorCounter : Nat
  isWrite : Nat
  requested : Nat
  busyCycles : Nat
  completed : Nat
  errored : Nat
  deriving DecidableEq, Repr

/-- The field names of a Register Item (10_state.md R23), an operand of H.WRITEITEM. -/
inductive ItemField where
  | address
  | value
  | factor
  | factorCounter
  | isWrite
  | requested
  | busyCycles
  | completed
  | errored
  deriving DecidableEq, Repr

/-- The transport agent's reply to one exchange: `Fail` or bytes (44_orchestrator.md R142). -/
inductive Answer where
  | fail
  | bytes (f : List Byte)
  deriving DecidableEq, Repr

/-- The outcome of the transport's one-time setup, a draw (45_host.md R151). -/
inductive SetupOutcome where
  | ok
  | fail
  deriving DecidableEq, Repr

/-- The ports an operation arrives on (30_encoding.md R77; 00_scope.md R7). -/
inductive Port where
  /-- The host port: CYCLE, CRC16 and the H.* operations (00_scope.md R7). -/
  | host
  /-- The block's own creation and the pure functions a reader of frames uses, which no rule puts on the host port: RESET
  (70_reset_and_hazards.md R200) and the codec (41_frame.md). -/
  | engine
  deriving DecidableEq, Repr

/-- One constructor per row of spec/opcode_table.json. -/
inductive Instr where
  /-- SDC.RD.REQ, outbound, write 0, error 0 (30_encoding.md R76). -/
  | sdcRdReq (value : Word16) (address : RegAddr) (reserved : BitVec 2)
  /-- SDC.WR.REQ, outbound, write 1, error 0 (30_encoding.md R76). -/
  | sdcWrReq (value : Word16) (address : RegAddr) (reserved : BitVec 2)
  /-- SDC.OUT.ERR, outbound, write any, error 1 (30_encoding.md R76, R79). -/
  | sdcOutErr (value : Word16) (address : RegAddr) (write : Bool) (reserved : BitVec 2)
  /-- SDC.RD.RESP, inbound, write 0, error 0 (30_encoding.md R76). -/
  | sdcRdResp (value : Word16) (address : RegAddr) (reserved : BitVec 2)
  /-- SDC.WR.ECHO, inbound, write 1, error 0 (30_encoding.md R76). -/
  | sdcWrEcho (value : Word16) (address : RegAddr) (reserved : BitVec 2)
  /-- SDC.RD.ERR, inbound, write 0, error 1 (30_encoding.md R76). -/
  | sdcRdErr (value : Word16) (address : RegAddr) (reserved : BitVec 2)
  /-- SDC.WR.ERR, inbound, write 1, error 1 (30_encoding.md R76). -/
  | sdcWrErr (value : Word16) (address : RegAddr) (reserved : BitVec 2)
  /-- CRC16 (40_checksum.md R100). -/
  | crc16 (s : List Byte)
  /-- STAMP (40_checksum.md R102). -/
  | stamp
  /-- VALIDATE (40_checksum.md R103). -/
  | validate (f : List Byte)
  /-- SDC.ENC (41_frame.md R110). -/
  | sdcEnc (r : SdcRec)
  /-- SDC.DEC (41_frame.md R111). -/
  | sdcDec (b : List Byte)
  /-- OUT.ENC (41_frame.md R112). -/
  | outEnc (o : OutRec)
  /-- OUT.DEC (41_frame.md R113). -/
  | outDec (t : List Byte)
  /-- IN.ENC (41_frame.md R114). -/
  | inEnc (r : InRec)
  /-- IN.DEC (41_frame.md R115). -/
  | inDec (f : List Byte)
  /-- SCHED (42_scheduler.md R120). -/
  | sched
  /-- MATCH (43_matcher.md R130). -/
  | matchSdc (f : List Byte)
  /-- CYCLE (44_orchestrator.md R140). -/
  | cycle (answer : Answer)
  /-- H.OPEN (45_host.md R151). -/
  | hOpen (outcome : SetupOutcome)
  /-- H.CLOSE (45_host.md R152). -/
  | hClose
  /-- H.SETCOUNT (45_host.md R153). -/
  | hSetCount (n : Nat)
  /-- H.CONFIG (45_host.md R154). -/
  | hConfig (k : Nat) (rec : RawItem)
  /-- H.WRITEITEM (45_host.md R155). -/
  | hWriteItem (k : Nat) (field : ItemField) (v : Nat)
  /-- H.READITEM (45_host.md R156). -/
  | hReadItem (k : Nat)
  /-- H.READCTX (45_host.md R157). -/
  | hReadCtx
  /-- H.WRITETX (45_host.md R158). -/
  | hWriteTx (o : Nat) (b : Nat)
  /-- H.READTX (45_host.md R159). -/
  | hReadTx (o : Nat)
  /-- H.READRX (45_host.md R160). -/
  | hReadRx (o : Nat)
  /-- RESET (70_reset_and_hazards.md R200). -/
  | reset
  deriving DecidableEq, Repr

end Sys2Proof
end

