-- ==== Sys2Proof/WellFormed.lean ====
section
/-!
DEFINITION. Which operations are well formed: every byte sequence an operation takes has the length its rule gives it.
A received frame has N_FRAME bytes ("no answer of another length exists in the model", 60_exceptions.md R182), a service
sub-frame has 4 (41_frame.md R111), and CRC16 takes any length (40_checksum.md R100). Operand ranges the host may
violate are no matter of form: 45_host.md refuses them by name when the operation runs.
-/

namespace Sys2Proof

/-- A byte sequence is a whole frame: N_FRAME bytes (30_encoding.md R70, R82). -/
def isFrame (f : List Byte) : Bool := f.length == nFrame

/-- The transport agent's answer is `Fail` or exactly N_FRAME bytes (00_scope.md R8). -/
def Answer.wellFormed : Answer → Bool
  | .fail => true
  | .bytes f => isFrame f

/-- An operation is well formed when each of its byte sequences has the length its rule states. -/
def Instr.wellFormed : Instr → Bool
  | .validate f => isFrame f
  | .sdcDec b => b.length == sdcLen
  | .outDec t => isFrame t
  | .inDec f => isFrame f
  | .matchSdc f => isFrame f
  | .cycle a => a.wellFormed
  | .sdcRdReq _ _ _ | .sdcWrReq _ _ _ | .sdcOutErr _ _ _ _ => true
  | .sdcRdResp _ _ _ | .sdcWrEcho _ _ _ | .sdcRdErr _ _ _ | .sdcWrErr _ _ _ => true
  | .crc16 _ | .stamp | .sdcEnc _ | .outEnc _ | .inEnc _ | .sched => true
  | .hOpen _ | .hClose | .hSetCount _ | .hConfig _ _ | .hWriteItem _ _ _ => true
  | .hReadItem _ | .hReadCtx | .hWriteTx _ _ | .hReadTx _ | .hReadRx _ | .reset => true

end Sys2Proof
end

