-- ==== Sys2Proof/Decode.lean ====
section
/-!
DEFINITION. The bit and byte layout of the service sub-frame and its decoder and encoder (30_encoding.md R71, R75, R76),
with the little-endian helpers every layout of the spec uses (20_memory.md R50 to R53). Decoding is total on any bytes: four
bytes or more always give exactly one kind in each direction (30_encoding.md R76), fewer are rejected by name. Port
operations carry no bit encoding (30_encoding.md R77): the port and the name select them, so the encoder has no bytes for them.
-/

namespace Sys2Proof

/-- Byte `k` of a number, byte 0 the least significant. -/
def byteOf {n : Nat} (v : BitVec n) (k : Nat) : Byte := v.extractLsb' (8 * k) 8

/-- LEbytes16 of 41_frame.md R112. -/
def leBytes16 (v : Word16) : List Byte := [byteOf v 0, byteOf v 1]

/-- LEbytes32 of 41_frame.md R114. -/
def leBytes32 (v : Word32) : List Byte := [byteOf v 0, byteOf v 1, byteOf v 2, byteOf v 3]

/-- Element `o` of a byte sequence. -/
def byteAt (bs : List Byte) (o : Nat) : Byte := bs.getD o 0

/-- LE16(buf, off): the byte at the lower offset is the less significant (00_scope.md R12; 20_memory.md R50). -/
def le16 (bs : List Byte) (o : Nat) : Word16 := byteAt bs (o + 1) ++ byteAt bs o

/-- LE32(buf, off) (00_scope.md R12). -/
def le32 (bs : List Byte) (o : Nat) : Word32 :=
  byteAt bs (o + 3) ++ byteAt bs (o + 2) ++ byteAt bs (o + 1) ++ byteAt bs o

/-- MemRead(buf, off, n): the little-endian value of `n` bytes (00_scope.md R12). -/
def memRead (bs : List Byte) (o : Nat) : Nat → Nat
  | 0 => 0
  | n + 1 => (byteAt bs o).toNat + 256 * memRead bs (o + 1) n

/-- MemWrite(buf, off, n, v): the n bytes it stores, little-endian (00_scope.md R12). -/
def memBytes (v : Nat) : Nat → List Byte
  | 0 => []
  | n + 1 => BitVec.ofNat 8 v :: memBytes (v / 256) n

/-- SDC.ENC: w1 is reserved, error, write, address from the high bits down (41_frame.md R110). -/
def encodeSdc (r : SdcRec) : List Byte :=
  let w1 : Word16 := r.reserved ++ BitVec.ofBool r.error ++ BitVec.ofBool r.write ++ r.address
  leBytes16 r.value ++ leBytes16 w1

/-- SDC.DEC: value W0, address W1[11:0], write W1[12], error W1[13], reserved W1[15:14] (41_frame.md R111). -/
def decodeSdc (b : List Byte) : SdcRec :=
  let w1 := le16 b 2
  { value := le16 b 0
    address := w1.extractLsb' 0 12
    write := w1.getLsbD 12
    error := w1.getLsbD 13
    reserved := w1.extractLsb' 14 2 }

/-- The kind of a sub-frame: its direction and its (write, error) bits select it (30_encoding.md R76). -/
def sdcKind : Direction → SdcRec → Instr
  | .outbound, r =>
    if r.error then .sdcOutErr r.value r.address r.write r.reserved
    else if r.write then .sdcWrReq r.value r.address r.reserved
    else .sdcRdReq r.value r.address r.reserved
  | .inbound, r =>
    match r.write, r.error with
    | false, false => .sdcRdResp r.value r.address r.reserved
    | true, false => .sdcWrEcho r.value r.address r.reserved
    | false, true => .sdcRdErr r.value r.address r.reserved
    | true, true => .sdcWrErr r.value r.address r.reserved

/-- Why bytes are no service sub-frame. -/
inductive DecodeError where
  /-- Fewer than the 4 bytes of a sub-frame (30_encoding.md R71, R82). -/
  | tooShort
  deriving DecidableEq, Repr

/-- The kind at the head of a byte sequence in a direction, and the bytes after it. -/
def decodeSubframe (d : Direction) : List Byte → Except DecodeError (Instr × List Byte)
  | b0 :: b1 :: b2 :: b3 :: rest => .ok (sdcKind d (decodeSdc [b0, b1, b2, b3]), rest)
  | _ => .error .tooShort

/-- The direction and fields of a sub-frame kind; a port operation has none (30_encoding.md R76, R77). -/
def Instr.sdcFields : Instr → Option (Direction × SdcRec)
  | .sdcRdReq v a r => some (.outbound, ⟨v, a, false, false, r⟩)
  | .sdcWrReq v a r => some (.outbound, ⟨v, a, true, false, r⟩)
  | .sdcOutErr v a w r => some (.outbound, ⟨v, a, w, true, r⟩)
  | .sdcRdResp v a r => some (.inbound, ⟨v, a, false, false, r⟩)
  | .sdcWrEcho v a r => some (.inbound, ⟨v, a, true, false, r⟩)
  | .sdcRdErr v a r => some (.inbound, ⟨v, a, false, true, r⟩)
  | .sdcWrErr v a r => some (.inbound, ⟨v, a, true, true, r⟩)
  | .crc16 _ | .stamp | .validate _ | .sdcEnc _ | .sdcDec _ | .outEnc _ | .outDec _ => none
  | .inEnc _ | .inDec _ | .sched | .matchSdc _ | .cycle _ | .hOpen _ | .hClose => none
  | .hSetCount _ | .hConfig _ _ | .hWriteItem _ _ _ | .hReadItem _ | .hReadCtx => none
  | .hWriteTx _ _ | .hReadTx _ | .hReadRx _ | .reset => none

/-- The direction and the four bytes of a sub-frame kind; none for a port operation, which has no encoding (30_encoding.md R77). -/
def encode (i : Instr) : Option (Direction × List Byte) :=
  i.sdcFields.map fun p => (p.1, encodeSdc p.2)

/-- The four bytes, lowest offset first, of a table word whose bits above `nbits` are 0 (S = LE32 of bytes 0-3, 30_encoding.md R76). -/
def tableWordBytes (nbits w : Nat) : List Byte := leBytes32 (BitVec.ofNat 32 (w % 2 ^ nbits))

/-- The operation the decoder reads from a table word. The word itself has no direction; it is read as an inbound
sub-frame, the direction the block decodes (43_matcher.md R130). DESIGN CHOICE, log entry 6. -/
def decodeTableWord (nbits w : Nat) : Option Instr :=
  match decodeSubframe .inbound (tableWordBytes nbits w) with
  | .ok (i, []) => some i
  | _ => none

end Sys2Proof
end

