-- ==== Sys2Proof/Machine/State.lean ====
section
/-!
DEFINITION. The state of the block as plain data: the Engine Context with every field of 10_state.md R22, the context's
OPEN parameters, and the model's own two fields, the requests waiting at the ports and the last result returned. Also the
named reasons an operation ends early, and the state right after RESET (10_state.md R46, 70_reset_and_hazards.md R200).
-/

namespace Sys2Proof.Machine

/-- Why the machine stops with a fault. The spec's own fault, CursorOutOfRange, is a mark in the context and not one of
these (60_exceptions.md R178): the step that raises it answers a next state. -/
inductive Fault where
  /-- Raised by SCHED and MATCH where the item they read next lies in a slot that holds no value. "A model must not read an
  unconfigured slot" (70_reset_and_hazards.md R200), and "a slot is never read before that" (10_state.md R46), since 45_host.md
  R153 refuses such a count. Safe: no state with the invariant of Safety.lean reaches it (log entry 10). -/
  | emptySlotRead
  deriving DecidableEq, Repr

/-- Why the machine gives a request no meaning. The refusals of 60_exceptions.md R179 are not these: they are marks in the
context and results, in a next state. -/
inductive Refusal where
  /-- Raised by an arm of exec whose instruction has no meaning in the model. Safe. No arm is left so. -/
  | notModelled (mnemonic : String)
  /-- Raised by step for an operation on a port that does not carry it. SCHED, STAMP, VALIDATE, MATCH and the sub-frame kinds
  are on no port: "they run only inside CYCLE" (30_encoding.md R77; 40_checksum.md R103; 00_scope.md R7). Safe. -/
  | wrongPort
  /-- Raised by step for an operand byte sequence of a length that does not exist (60_exceptions.md R182). Safe. -/
  | illFormed
  /-- Raised by the outbound sub-frame kinds when the sub-frame is not the one the scheduler leaves in tx[0..3], so that no
  rule of the spec sends it in this state (30_encoding.md R76, R79). Safe. -/
  | subframeNotSent
  deriving DecidableEq, Repr

/-- The reason of the spec's model-only fault (10_state.md R40; 60_exceptions.md R178). -/
inductive FaultReason where
  | cursorOutOfRange
  deriving DecidableEq, Repr

/-- The reasons of the spec's refusal outcome, in its order (60_exceptions.md R179). -/
inductive RefuseReason where
  | openNotAllowed
  | closeNotOpen
  | countTooLarge
  | unconfiguredSlot
  | slotOutOfRange
  | addressTooWide
  | valueTooWide
  | busyWrite
  | notABit
  | outOfRange
  | txRegionProtected
  | rxEmpty
  | afterFaultOrRefusal
  deriving DecidableEq, Repr

/-- The transport collaborator's life, "open-once, exchange-many, close-once" (10_state.md R39). -/
inductive Transport where
  | unopened
  | opened
  | closed
  deriving DecidableEq, Repr

/-- A diagnostic with its arguments (60_exceptions.md R172). -/
inductive Diag where
  | setupFailure
  | crcMismatch
  | crcRecovered (n : Nat)
  | sdcTimeout (index : Nat) (address : RegAddr)
  | sdcError (index : Nat) (address : RegAddr) (code : Word16)
  deriving DecidableEq, Repr

/-- An entry of the event sequence (10_state.md R36). -/
inductive Event where
  | diag (d : Diag)
  | exchange (sent : List Byte) (answer : Answer)
  deriving DecidableEq, Repr

/-- A Register Item: exactly the nine fields of 10_state.md R23. -/
structure Item where
  address : RegAddr
  value : Word16
  factor : Nat
  factorCounter : Nat
  isWrite : Bool
  requested : Bool
  busyCycles : Nat
  completed : Bool
  errored : Bool
  deriving DecidableEq, Repr

/-- The bytes of one frame buffer by offset: offsets strictly rising, no entry 0x00, which is what an unlisted offset reads
as (tx's reset content, 10_state.md R46). -/
abbrev Memory := List Host.Cell

/-- The Register Item table: the configured slots by index, rising; an unlisted slot holds no value (10_state.md R22). -/
abbrev ItemTable := List (Nat × Item)

/-- The Engine Context: exactly the fields of 10_state.md R22. -/
structure Context where
  items : ItemTable
  count : Nat
  cursor : Nat
  tx : Memory
  rx : Option Memory
  crcFailCount : Nat
  transport : Transport
  events : List Event
  fault : Option FaultReason
  refused : Option RefuseReason
  deriving DecidableEq, Repr

/-- What H.READCTX returns (45_host.md R157). -/
structure CtxView where
  count : Nat
  cursor : Nat
  crcFailCount : Nat
  transport : Transport
  events : List Event
  deriving DecidableEq, Repr

/-- What an operation returns to its caller (44_orchestrator.md R146; 60_exceptions.md R170, R171). -/
inductive Result where
  /-- The operation returns nothing: RESET, SCHED, STAMP, MATCH and the sub-frame kinds. -/
  | noValue
  | ok
  | setupFail
  | notReady
  | xferFail
  | crcFail
  /-- The value of CRC16. -/
  | checksum (c : Word16)
  /-- The answer of VALIDATE. -/
  | verdict (b : Bool)
  /-- The bytes of SDC.ENC, OUT.ENC and IN.ENC. -/
  | bytes (bs : List Byte)
  /-- The record of SDC.DEC. -/
  | sdcRecord (r : SdcRec)
  /-- The record and checksum field of OUT.DEC. -/
  | outRecord (r : OutRec) (crcField : Word16)
  /-- The record and checksum field of IN.DEC. -/
  | inRecord (r : InRec) (crcField : Word16)
  /-- The item of H.READITEM. -/
  | item (it : Item)
  /-- The fields of H.READCTX. -/
  | context (v : CtxView)
  /-- The byte of H.READTX and H.READRX. -/
  | byte (b : Byte)
  /-- The fault outcome (60_exceptions.md R178). -/
  | faulted (why : FaultReason)
  /-- The refusal outcome (60_exceptions.md R179). -/
  | refusedFor (why : RefuseReason)
  deriving DecidableEq, Repr

/-- A request that waits at one of the block's ports: "The port an operation arrives on, and its name, select it"
(30_encoding.md R77). -/
structure Request where operation ::
  port : Port
  op : Instr
  deriving DecidableEq, Repr

/-- The machine: one context with its parameters, the requests that wait at its ports, and the last result. -/
structure State where
  params : Params
  ctx : Context
  pending : List Request
  result : Option Result
  deriving DecidableEq, Repr

/-- The Engine Context right after RESET, the normative table of 10_state.md R46. -/
def Context.reset : Context where
  items := []
  count := 0
  cursor := 0
  tx := []
  rx := none
  crcFailCount := 0
  transport := .unopened
  events := []
  fault := none
  refused := none

/-- The machine right after RESET: the context of R46, no request waiting and no result returned (log entries 1 to 3). -/
def State.reset : State where
  params := Config.params
  ctx := Context.reset
  pending := []
  result := none

end Sys2Proof.Machine
end

