-- ==== Sys2Proof/Machine/Ops.lean ====
section
/-!
DEFINITION. The named operations over the state: frame buffers by offset, the item table by slot, the event sequence, and
the ways an operation ends. Ending in the fault or the refusal outcome is the block's only "trap entry"
(60_exceptions.md R176, R178, R179); nothing returns from it (60_exceptions.md R177).
-/

namespace Sys2Proof.Machine

/-- sat_inc(x, MAX) of 00_scope.md R11. -/
def satInc (x max : Nat) : Nat := min (x + 1) max

section Cells

variable {α : Type}

/-- The value a key-sorted list holds for a key. -/
def cellGet (k : Nat) : List (Nat × α) → Option α
  | [] => none
  | (j, v) :: rest => if j = k then some v else cellGet k rest

/-- The list with a key set to a value, keys kept rising. -/
def cellPut (k : Nat) (v : α) : List (Nat × α) → List (Nat × α)
  | [] => [(k, v)]
  | (j, w) :: rest =>
    if k < j then (k, v) :: (j, w) :: rest
    else if k = j then (k, v) :: rest
    else (j, w) :: cellPut k v rest

/-- The list without a key. -/
def cellDrop (k : Nat) : List (Nat × α) → List (Nat × α)
  | [] => []
  | (j, w) :: rest => if j = k then rest else (j, w) :: cellDrop k rest

/-- The keys rise strictly, so equal tables are equal lists. -/
abbrev Rising (m : List (Nat × α)) : Prop := (m.map Prod.fst).Pairwise (· < ·)

end Cells

/-- The canonical form of a frame buffer: offsets rising and below N_FRAME, no entry 0x00. -/
abbrev Memory.wf (m : Memory) : Prop := Rising m ∧ ∀ c ∈ m, c.1 < nFrame ∧ c.2 ≠ 0

/-- The byte at an offset; an unlisted offset reads 0x00 (10_state.md R46). -/
def Memory.read (m : Memory) (o : Nat) : Byte := (cellGet o m).getD 0

/-- Store one byte; a byte 0x00 removes the entry, so that the form stays canonical. -/
def Memory.write (m : Memory) (o : Nat) (b : Byte) : Memory :=
  if b = 0 then cellDrop o m else cellPut o b m

/-- Store bytes at rising offsets. -/
def Memory.writeBytes (m : Memory) (o : Nat) : List Byte → Memory
  | [] => m
  | b :: bs => Memory.writeBytes (m.write o b) (o + 1) bs

/-- The bytes of offsets `o` to `o + n - 1`. -/
def Memory.readBytes (m : Memory) (o n : Nat) : List Byte := (List.range n).map fun k => m.read (o + k)

/-- All N_FRAME bytes of a buffer. -/
def Memory.frame (m : Memory) : List Byte := m.readBytes 0 nFrame

/-- The buffer that holds a frame's bytes. -/
def Memory.ofFrame (f : List Byte) : Memory := Memory.writeBytes [] 0 (f.take nFrame)

/-- The item in a slot, or no value (10_state.md R22). -/
def Context.item? (c : Context) (k : Nat) : Option Item := cellGet k c.items

/-- Put an item into a slot. -/
def Context.putItem (c : Context) (k : Nat) (it : Item) : Context := { c with items := cellPut k it c.items }

/-- Move the round-robin cursor. -/
def Context.moveCursor (c : Context) (k : Nat) : Context := { c with cursor := k }

/-- The byte of the outbound frame at an offset. -/
def Context.txByte (c : Context) (o : Nat) : Byte := c.tx.read o

/-- Store one byte of the outbound frame. -/
def Context.putTx (c : Context) (o : Nat) (b : Byte) : Context := { c with tx := c.tx.write o b }

/-- Append one event (10_state.md R36). -/
def Context.append (c : Context) (e : Event) : Context := { c with events := c.events ++ [e] }

/-- `emit K(args)` of 00_scope.md R12. -/
def Context.emit (c : Context) (d : Diag) : Context := c.append (.diag d)

/-- `emit` under a condition. -/
def Context.emitIf (c : Context) (cond : Bool) (d : Diag) : Context := if cond then c.emit d else c

/-- The kind of a diagnostic (60_exceptions.md R172). -/
def Diag.kind : Diag → DiagKind
  | .setupFailure => .setupFailure
  | .crcMismatch => .crcMismatch
  | .crcRecovered _ => .crcRecovered
  | .sdcTimeout _ _ => .sdcTimeout
  | .sdcError _ _ _ => .sdcError

/-- The severity the context's DIAG_LEVEL gives a diagnostic; no rule depends on it (60_exceptions.md R173). -/
def State.severity (s : State) (d : Diag) : Severity := s.params.diagLevels.level d.kind

/-- The three outcomes of one operation. -/
abbrev Out := Host.Outcome State Fault Refusal

/-- The context carries a fault or refused mark (10_state.md R40). -/
def Context.marked (c : Context) : Bool := c.fault.isSome || c.refused.isSome

/-- Replace the context. -/
def State.withCtx (s : State) (c : Context) : State := { s with ctx := c }

/-- `return r` (00_scope.md R12): the result goes to the caller and into no field of the context (44_orchestrator.md R146). -/
def State.return (s : State) (r : Result) : State := { s with result := some r }

/-- `refuse(reason)`: the mark records the reason and nothing else of the context is written (60_exceptions.md R179). -/
def State.refuse (s : State) (why : RefuseReason) : State :=
  (s.withCtx { s.ctx with refused := some why }).return (.refusedFor why)

/-- `raise Fault(reason)`: the mark is set and the operation ends (60_exceptions.md R178). -/
def State.raiseFault (s : State) (why : FaultReason) : State :=
  (s.withCtx { s.ctx with fault := some why }).return (.faulted why)

/-- Run an operation on a context that carries no mark. A marked context takes no further step: the outcome is
AfterFaultOrRefusal and nothing is written, not even the refused mark (10_state.md R40; 60_exceptions.md R179). -/
def State.unlessMarked (s : State) (k : State → Out) : Out :=
  if s.ctx.marked then .next (s.return (.refusedFor .afterFaultOrRefusal)) else k s

/-- A pure operation: it only returns a value (20_memory.md R56). -/
def State.answer (s : State) (r : Result) : Out := s.unlessMarked fun s => .next (s.return r)

/-- Why SCHED or MATCH ends before its end. -/
inductive EngineStop where
  /-- `Fault(CursorOutOfRange)` (42_scheduler.md R120). -/
  | cursorOutOfRange
  /-- The next item to read lies in a slot that holds no value (70_reset_and_hazards.md R200). -/
  | emptySlotRead
  deriving DecidableEq, Repr

/-- Go on from an engine sub-step, or end the operation as the sub-step's stop says. -/
def State.andThen (s : State) (r : Except EngineStop Context) (k : State → Out) : Out :=
  match r with
  | .ok c => k (s.withCtx c)
  | .error .cursorOutOfRange => .next (s.raiseFault .cursorOutOfRange)
  | .error .emptySlotRead => .fault .emptySlotRead

end Sys2Proof.Machine
end

