-- ==== Sys2Proof/Machine/Flags.lean ====
section
/-!
DEFINITION. The predicates over an item's flags and over a response that the scheduler and the matcher decide by, and the
derived phases of an item (10_state.md R42).
-/

namespace Sys2Proof.Machine

/-- "in-flight ⇔ busy_cycles > 0" (10_state.md R42). -/
def Item.inFlight (it : Item) : Bool := decide (0 < it.busyCycles)

/-- "requested ⇔ busy_cycles = 0 ∧ requested = 1" (10_state.md R42). -/
def Item.isRequested (it : Item) : Bool := !it.inFlight && it.requested

/-- "completed ⇔ busy_cycles = 0 ∧ completed = 1" (10_state.md R42). -/
def Item.isCompleted (it : Item) : Bool := !it.inFlight && it.completed

/-- "idle ⇔ busy_cycles = 0 ∧ requested = 0 ∧ completed = 0" (10_state.md R42). -/
def Item.isIdle (it : Item) : Bool := !it.inFlight && !it.requested && !it.completed

/-- Eligible for dispatch: factor > 0 or requested = 1, nothing else (42_scheduler.md R122). -/
def Item.eligible (it : Item) : Bool := decide (0 < it.factor) || it.requested

/-- Step 2's discard: the address or the write flag does not match (43_matcher.md R131 (a)). -/
def Item.mismatches (it : Item) (r : SdcRec) : Bool := r.address != it.address || r.write != it.isWrite

/-- Step 3's discard: a write confirmation whose echoed value is not the item's (43_matcher.md R131 (b)). -/
def Item.echoDiffers (it : Item) (r : SdcRec) : Bool := r.write && !r.error && r.value != it.value

/-- Step 4's test: the peripheral signals an error that is new (43_matcher.md R132). -/
def Item.errorIsNew (it : Item) (r : SdcRec) : Bool := r.error && (!it.errored || it.value != r.value)

/-- Every slot below a number holds an item, H.SETCOUNT's condition on a count (45_host.md R153). -/
def Context.configured (c : Context) (n : Nat) : Bool := (List.range n).all fun k => (c.item? k).isSome

end Sys2Proof.Machine
end

