-- ==== Sys2Proof/Machine/Operands.lean ====
section
/-!
DEFINITION. The operand checks of the host port, in the order the pseudocode of 45_host.md states them, and the field
writes they guard. A check answers the refusal reason, or what the operation writes.
-/

namespace Sys2Proof.Machine

/-- A natural number is one bit: 0 or 1. -/
def isBit (v : Nat) : Bool := v == 0 || v == 1

/-- The Register Item of a checked record (45_host.md R154). -/
def rawToItem (r : RawItem) : Item where
  address := BitVec.ofNat 12 r.address
  value := BitVec.ofNat 16 r.value
  factor := r.factor
  factorCounter := r.factorCounter
  isWrite := r.isWrite == 1
  requested := r.requested == 1
  busyCycles := r.busyCycles
  completed := r.completed == 1
  errored := r.errored == 1

/-- H.CONFIG's checks on its slot and its record (45_host.md R154). -/
def checkConfig (p : Params) (k : Nat) (r : RawItem) : Except RefuseReason Item :=
  if p.sdcCapacity ≤ k then .error .slotOutOfRange
  else if 0xFFF < r.address then .error .addressTooWide
  else if 0xFFFF < r.value then .error .valueTooWide
  else if r.busyCycles ≠ 0 then .error .busyWrite
  else if !(isBit r.isWrite && isBit r.requested && isBit r.completed && isBit r.errored) then .error .notABit
  else .ok (rawToItem r)

/-- The value lies within the field's width (10_state.md R23). -/
def fieldAdmits (field : ItemField) (v : Nat) : Bool :=
  match field with
  | .address => decide (v ≤ 0xFFF)
  | .value => decide (v ≤ 0xFFFF)
  | .factor => true
  | .factorCounter => true
  | .isWrite => isBit v
  | .requested => isBit v
  | .busyCycles => true
  | .completed => isBit v
  | .errored => isBit v

/-- `items[k].field <- v` (45_host.md R155). -/
def Item.setField (it : Item) (field : ItemField) (v : Nat) : Item :=
  match field with
  | .address => { it with address := BitVec.ofNat 12 v }
  | .value => { it with value := BitVec.ofNat 16 v }
  | .factor => { it with factor := v }
  | .factorCounter => { it with factorCounter := v }
  | .isWrite => { it with isWrite := v == 1 }
  | .requested => { it with requested := v == 1 }
  | .busyCycles => { it with busyCycles := v }
  | .completed => { it with completed := v == 1 }
  | .errored => { it with errored := v == 1 }

/-- The item in a slot the host names, or UnconfiguredSlot (45_host.md R155, R156). -/
def checkSlot (p : Params) (c : Context) (k : Nat) : Except RefuseReason Item :=
  if p.sdcCapacity ≤ k then .error .unconfiguredSlot
  else match c.item? k with
    | none => .error .unconfiguredSlot
    | some it => .ok it

/-- H.WRITEITEM's checks: the item after the write (45_host.md R155). -/
def checkWriteItem (p : Params) (c : Context) (k : Nat) (field : ItemField) (v : Nat) : Except RefuseReason Item :=
  match checkSlot p c k with
  | .error why => .error why
  | .ok it =>
    if field = .busyCycles ∧ v ≠ 0 then .error .busyWrite
    else if !fieldAdmits field v then .error .outOfRange
    else .ok (it.setField field v)

/-- H.SETCOUNT's checks (45_host.md R153). -/
def checkCount (p : Params) (c : Context) (n : Nat) : Except RefuseReason Nat :=
  if p.sdcCapacity < n then .error .countTooLarge
  else if !c.configured n then .error .unconfiguredSlot
  else .ok n

/-- H.WRITETX's checks: process data only, one byte (45_host.md R158). -/
def checkWriteTx (o b : Nat) : Except RefuseReason Byte :=
  if o < sdcLen ∨ nFrame - 3 < o then .error .txRegionProtected
  else if 0xFF < b then .error .outOfRange
  else .ok (BitVec.ofNat 8 b)

/-- H.READTX's check (45_host.md R159). -/
def checkReadTx (c : Context) (o : Nat) : Except RefuseReason Byte :=
  if nFrame ≤ o then .error .outOfRange else .ok (c.txByte o)

/-- H.READRX's checks (45_host.md R160). -/
def checkReadRx (c : Context) (o : Nat) : Except RefuseReason Byte :=
  if nFrame ≤ o then .error .outOfRange
  else match c.rx with
    | none => .error .rxEmpty
    | some m => .ok (m.read o)

/-- A host operation goes on with what its checks admit, or is refused with their reason (45_host.md R150). -/
def State.checked {α : Type} (s : State) (r : Except RefuseReason α) (k : α → State) : Out :=
  match r with
  | .ok a => .next (k a)
  | .error why => .next (s.refuse why)

end Sys2Proof.Machine
end

