-- ==== Sys2Proof/Machine/Checksum.lean ====
section
/-!
DEFINITION. The checksum engine: CRC16, STAMP and VALIDATE (40_checksum.md R100 to R104).
-/

namespace Sys2Proof.Machine

/-- One of the eight shifts of CRC16's inner loop (40_checksum.md R100). -/
def crcShift (c : Word16) : Word16 := if c.getLsbD 0 then (c >>> 1) ^^^ 0xA001#16 else c >>> 1

/-- The inner loop: `n` shifts. -/
def crcShifts : Nat → Word16 → Word16
  | 0, c => c
  | n + 1, c => crcShifts n (crcShift c)

/-- One byte of the outer loop. -/
def crcByte (c : Word16) (b : Byte) : Word16 := crcShifts 8 (c ^^^ b.setWidth 16)

/-- The outer loop from a given register content. -/
def crcFrom (c : Word16) : List Byte → Word16
  | [] => c
  | b :: bs => crcFrom (crcByte c b) bs

/-- CRC16(s): initial value 0xFFFF, final XOR 0 (40_checksum.md R100). -/
def crc16 (s : List Byte) : Word16 := crcFrom 0xFFFF#16 s

/-- VALIDATE(f): CRC16 of bytes 0 to 23 against LE16 of bytes 24 and 25 (40_checksum.md R103). -/
def validate (f : List Byte) : Bool := crc16 (f.take nCovered) == le16 f (nFrame - crcLen)

/-- STAMP(): the checksum of tx[0..23] into tx[24..25], low byte first (40_checksum.md R102). -/
def stamp (c : Context) : Context :=
  let crc := crc16 (c.tx.readBytes 0 nCovered)
  (c.putTx (nFrame - 2) (byteOf crc 0)).putTx (nFrame - 1) (byteOf crc 1)

/-- CRC16, the standalone checksum function of the host port (40_checksum.md R100; 00_scope.md R7). -/
def execCrc16 (bs : List Byte) (s : State) : Out := s.answer (.checksum (crc16 bs))

/-- STAMP, internal to CYCLE: no port carries it (30_encoding.md R77; 40_checksum.md R102). -/
def execStamp (s : State) : Out :=
  s.unlessMarked fun s => .next ((s.withCtx (stamp s.ctx)).return .noValue)

/-- VALIDATE, internal to CYCLE: no port carries it (40_checksum.md R103). -/
def execValidate (f : List Byte) (s : State) : Out := s.answer (.verdict (validate f))

end Sys2Proof.Machine
end

