-- ==== Sys2Proof/Machine/Codec.lean ====
section
/-!
DEFINITION. The frame codec: the explicit serializer and deserializer of the service sub-frame and of both frames
(41_frame.md R110 to R118) over the layouts of 30_encoding.md R71 to R73. Every function is pure and total.
-/

namespace Sys2Proof.Machine

/-- A frame's first 24 bytes with their checksum behind them, low byte first (41_frame.md R112, R114). -/
def withChecksum (t : List Byte) : List Byte := t ++ leBytes16 (crc16 t)

/-- The first 24 bytes of OUT.ENC (41_frame.md R112). -/
def outBody (o : OutRec) : List Byte :=
  encodeSdc o.sdc ++ [o.control, o.ledMask, o.ledValue, o.dout]
    ++ leBytes16 o.pwmDiv1 ++ leBytes16 o.pwmDc1 ++ leBytes16 o.pwmDc2
    ++ leBytes16 o.pwmDc3 ++ leBytes16 o.pwmDiv2 ++ leBytes16 o.pwmDc4
    ++ leBytes16 o.aout1 ++ leBytes16 o.aout2

/-- OUT.ENC (41_frame.md R112). -/
def outEnc (o : OutRec) : List Byte := withChecksum (outBody o)

/-- The record OUT.DEC reads (41_frame.md R113). -/
def outDec (t : List Byte) : OutRec where
  sdc := decodeSdc (t.take sdcLen)
  control := byteAt t 4
  ledMask := byteAt t 5
  ledValue := byteAt t 6
  dout := byteAt t 7
  pwmDiv1 := le16 t 8
  pwmDc1 := le16 t 10
  pwmDc2 := le16 t 12
  pwmDc3 := le16 t 14
  pwmDiv2 := le16 t 16
  pwmDc4 := le16 t 18
  aout1 := le16 t 20
  aout2 := le16 t 22

/-- The first 24 bytes of IN.ENC (41_frame.md R114). -/
def inBody (r : InRec) : List Byte :=
  encodeSdc r.sdc ++ [r.status] ++ leBytes16 r.reserved16 ++ [r.din]
    ++ leBytes32 r.cnt1 ++ leBytes32 r.cnt2 ++ leBytes32 r.cnt3
    ++ leBytes16 r.ain1 ++ leBytes16 r.ain2

/-- IN.ENC (41_frame.md R114). -/
def inEnc (r : InRec) : List Byte := withChecksum (inBody r)

/-- The record IN.DEC reads (41_frame.md R115). -/
def inDec (f : List Byte) : InRec where
  sdc := decodeSdc (f.take sdcLen)
  status := byteAt f 4
  reserved16 := le16 f 5
  din := byteAt f 7
  cnt1 := le32 f 8
  cnt2 := le32 f 12
  cnt3 := le32 f 16
  ain1 := le16 f 20
  ain2 := le16 f 22

/-- The checksum field of a frame, returned and not checked (41_frame.md R113, R115). -/
def crcField (f : List Byte) : Word16 := le16 f (nFrame - crcLen)

/-- SDC.ENC (41_frame.md R110). -/
def execSdcEnc (r : SdcRec) (s : State) : Out := s.answer (.bytes (encodeSdc r))

/-- SDC.DEC (41_frame.md R111). -/
def execSdcDec (b : List Byte) (s : State) : Out := s.answer (.sdcRecord (decodeSdc b))

/-- OUT.ENC (41_frame.md R112). -/
def execOutEnc (o : OutRec) (s : State) : Out := s.answer (.bytes (outEnc o))

/-- OUT.DEC (41_frame.md R113). -/
def execOutDec (t : List Byte) (s : State) : Out := s.answer (.outRecord (outDec t) (crcField t))

/-- IN.ENC (41_frame.md R114). -/
def execInEnc (r : InRec) (s : State) : Out := s.answer (.bytes (inEnc r))

/-- IN.DEC (41_frame.md R115). -/
def execInDec (f : List Byte) (s : State) : Out := s.answer (.inRecord (inDec f) (crcField f))

end Sys2Proof.Machine
end

