-- ==== Sys2Proof/Machine/Scheduler.lean ====
section
/-!
DEFINITION. The service-register scheduler (42_scheduler.md R120 to R125): the busy branch, the scan and the dispatch.
-/

namespace Sys2Proof.Machine

/-- The busy branch: a saturating increment of the cursor item's busy_cycles, and SdcTimeout exactly when the increment
changes the value and the new value is BUSY_TIMEOUT (42_scheduler.md R121). -/
def busyStep (p : Params) (c : Context) (it : Item) : Context :=
  let busy := satInc it.busyCycles p.busySat
  (c.putItem c.cursor { it with busyCycles := busy }).emitIf
    (busy != it.busyCycles && busy == busyTimeout) (.sdcTimeout c.cursor it.address)

/-- The slots in scan order: from the cursor, inclusive, wrapping, each once (42_scheduler.md R122). -/
def scanOrder (n i : Nat) : List Nat := (List.range n).map fun d => (i + d) % n

/-- The first eligible slot of a list with its item, or none. Slots are read one by one, up to the first eligible one
(42_scheduler.md R120, R122). -/
def scanSlots (c : Context) : List Nat → Except EngineStop (Option (Nat × Item))
  | [] => .ok none
  | j :: js =>
    match c.item? j with
    | none => .error .emptySlotRead
    | some it => if it.eligible then .ok (some (j, it)) else scanSlots c js

/-- The first eligible slot in scan order with its item; none after a full wrap (42_scheduler.md R122). -/
def scan (c : Context) : Except EngineStop (Option (Nat × Item)) := scanSlots c (scanOrder c.count c.cursor)

/-- Byte 3 of the sub-frame at dispatch: reserved bits kept, error 0, write flag, address[11:8] (42_scheduler.md R123). -/
def dispatchByte3 (old : Byte) (it : Item) : Byte :=
  old.extractLsb' 6 2 ++ 0#1 ++ BitVec.ofBool it.isWrite ++ it.address.extractLsb' 8 4

/-- DISPATCH(j) (42_scheduler.md R123). -/
def dispatch (c : Context) (j : Nat) (it : Item) : Context :=
  (((((c.putTx 0 (byteOf it.value 0)).putTx 1 (byteOf it.value 1)).putTx 2 (byteOf it.address 0)).putTx 3
    (dispatchByte3 (c.txByte 3) it)).putItem j { it with busyCycles := 1, requested := false }).moveCursor j

/-- SCHED() (42_scheduler.md R120). -/
def sched (p : Params) (c : Context) : Except EngineStop Context :=
  if c.count = 0 then .ok c
  else if c.count ≤ c.cursor then .error .cursorOutOfRange
  else match c.item? c.cursor with
    | none => .error .emptySlotRead
    | some it =>
      if it.inFlight then .ok (busyStep p c it)
      else match scan c with
        | .error stop => .error stop
        | .ok none => .ok c
        | .ok (some (j, it')) => .ok (dispatch c j it')

/-- SCHED, internal to CYCLE: no port carries it (30_encoding.md R77; 42_scheduler.md R120). -/
def execSched (s : State) : Out :=
  s.unlessMarked fun s => s.andThen (sched s.params s.ctx) fun s => .next (s.return .noValue)

end Sys2Proof.Machine
end

