-- ==== Sys2Proof/Machine/Matcher.lean ====
section
/-!
DEFINITION. The request/response matcher (43_matcher.md R130 to R135). It has no busy test (R134) and reads no byte of the
frame beyond the service sub-frame.
-/

namespace Sys2Proof.Machine

/-- Accept: the item's fields from the response, the cursor one on, modulo count (43_matcher.md R133). -/
def accept (c : Context) (it : Item) (r : SdcRec) : Context :=
  (c.putItem c.cursor
    { it with busyCycles := 0, completed := true, value := r.value, errored := r.error }).moveCursor
    ((c.cursor + 1) % c.count)

/-- Steps 2 to 5 for the item at the cursor (43_matcher.md R131 to R133). -/
def matchItem (c : Context) (it : Item) (r : SdcRec) : Context :=
  if it.mismatches r then c
  else if it.echoDiffers r then c
  else accept (c.emitIf (it.errorIsNew r) (.sdcError c.cursor it.address r.value)) it r

/-- MATCH over a decoded sub-frame (43_matcher.md R130). -/
def matchRec (c : Context) (r : SdcRec) : Except EngineStop Context :=
  if c.count = 0 ∨ c.count ≤ c.cursor then .ok c
  else match c.item? c.cursor with
    | none => .error .emptySlotRead
    | some it => .ok (matchItem c it r)

/-- MATCH(f) (43_matcher.md R130). -/
def matchFrame (c : Context) (f : List Byte) : Except EngineStop Context :=
  matchRec c (decodeSdc (f.take sdcLen))

/-- MATCH, internal to CYCLE: no port carries it (30_encoding.md R77; 43_matcher.md R130). -/
def execMatch (f : List Byte) (s : State) : Out :=
  s.unlessMarked fun s => s.andThen (matchFrame s.ctx f) fun s => .next (s.return .noValue)

end Sys2Proof.Machine
end

