-- ==== Sys2Proof/Machine/Orchestrator.lean ====
section
/-!
DEFINITION. The transaction orchestrator (44_orchestrator.md R140 to R148): one CYCLE, as one atomic transition.
-/

namespace Sys2Proof.Machine

/-- Step 6's failure path: count, emit CrcMismatch on the first of a run, report (44_orchestrator.md R144). -/
def crcFailure (p : Params) (c : Context) : Context :=
  ({ c with crcFailCount := satInc c.crcFailCount p.crcFailSat } : Context).emitIf (c.crcFailCount == 0) .crcMismatch

/-- Step 7 before MATCH: CrcRecovered(N) if N > 0, the counter to 0, the frame into rx (44_orchestrator.md R145). -/
def commit (c : Context) (f : List Byte) : Context :=
  { c.emitIf (decide (0 < c.crcFailCount)) (.crcRecovered c.crcFailCount) with
    crcFailCount := 0
    rx := some (Memory.ofFrame f) }

/-- Steps 4 to 8: the exchange record, then the answer's path (44_orchestrator.md R142 to R145). -/
def exchange (answer : Answer) (s : State) : Out :=
  let s1 := s.withCtx (s.ctx.append (.exchange s.ctx.tx.frame answer))
  match answer with
  | .fail => .next (s1.return .xferFail)
  | .bytes f =>
    if validate f then
      let s2 := s1.withCtx (commit s1.ctx f)
      s2.andThen (matchFrame s2.ctx f) fun s => .next (s.return .ok)
    else .next ((s1.withCtx (crcFailure s1.params s1.ctx)).return .crcFail)

/-- CYCLE(answer) (44_orchestrator.md R140). -/
def execCycle (answer : Answer) (s : State) : Out :=
  s.unlessMarked fun s =>
    if s.ctx.transport ≠ .opened then .next (s.return .notReady)
    else s.andThen (sched s.params s.ctx) fun s => exchange answer (s.withCtx (stamp s.ctx))

end Sys2Proof.Machine
end

