-- ==== Sys2Proof/Machine/HostPort.lean ====
section
/-!
DEFINITION. The host port's operations on the context (45_host.md R150 to R160). Each is atomic, takes place between cycles,
and is refused on a marked context.
-/

namespace Sys2Proof.Machine

/-- H.OPEN (45_host.md R151). -/
def execHOpen (outcome : SetupOutcome) (s : State) : Out :=
  s.unlessMarked fun s =>
    if s.ctx.transport ≠ .unopened then .next (s.refuse .openNotAllowed)
    else match outcome with
      | .ok => .next ((s.withCtx { s.ctx with transport := .opened }).return .ok)
      | .fail => .next ((s.withCtx (s.ctx.emit .setupFailure)).return .setupFail)

/-- H.CLOSE (45_host.md R152). -/
def execHClose (s : State) : Out :=
  s.unlessMarked fun s =>
    if s.ctx.transport ≠ .opened then .next (s.refuse .closeNotOpen)
    else .next ((s.withCtx { s.ctx with transport := .closed }).return .ok)

/-- H.SETCOUNT (45_host.md R153): the cursor is not changed. -/
def execHSetCount (n : Nat) (s : State) : Out :=
  s.unlessMarked fun s =>
    s.checked (checkCount s.params s.ctx n) fun n => (s.withCtx { s.ctx with count := n }).return .ok

/-- H.CONFIG (45_host.md R154). -/
def execHConfig (k : Nat) (raw : RawItem) (s : State) : Out :=
  s.unlessMarked fun s =>
    s.checked (checkConfig s.params k raw) fun it => (s.withCtx (s.ctx.putItem k it)).return .ok

/-- H.WRITEITEM (45_host.md R155). -/
def execHWriteItem (k : Nat) (field : ItemField) (v : Nat) (s : State) : Out :=
  s.unlessMarked fun s =>
    s.checked (checkWriteItem s.params s.ctx k field v) fun it => (s.withCtx (s.ctx.putItem k it)).return .ok

/-- H.READITEM (45_host.md R156). -/
def execHReadItem (k : Nat) (s : State) : Out :=
  s.unlessMarked fun s => s.checked (checkSlot s.params s.ctx k) fun it => s.return (.item it)

/-- The fields H.READCTX returns (45_host.md R157). -/
def Context.view (c : Context) : CtxView where
  count := c.count
  cursor := c.cursor
  crcFailCount := c.crcFailCount
  transport := c.transport
  events := c.events

/-- H.READCTX (45_host.md R157). -/
def execHReadCtx (s : State) : Out := s.answer (.context s.ctx.view)

/-- H.WRITETX (45_host.md R158). -/
def execHWriteTx (o b : Nat) (s : State) : Out :=
  s.unlessMarked fun s => s.checked (checkWriteTx o b) fun v => (s.withCtx (s.ctx.putTx o v)).return .ok

/-- H.READTX (45_host.md R159). -/
def execHReadTx (o : Nat) (s : State) : Out :=
  s.unlessMarked fun s => s.checked (checkReadTx s.ctx o) fun v => s.return (.byte v)

/-- H.READRX (45_host.md R160). -/
def execHReadRx (o : Nat) (s : State) : Out :=
  s.unlessMarked fun s => s.checked (checkReadRx s.ctx o) fun v => s.return (.byte v)

end Sys2Proof.Machine
end

