-- ==== Sys2Proof/Machine/Subframe.lean ====
section
/-!
DEFINITION. The service sub-frame kinds as sub-steps of a CYCLE (30_encoding.md R76, R77; log entry 5). An inbound kind is what
MATCH consumes: its meaning is MATCH's effect on the context. An outbound kind is what the scheduler leaves in tx[0..3] to be
sent: its meaning is that SCHED step, with the sub-frame as the one it sends, freshly dispatched or retained
(42_scheduler.md R120, R123; 10_state.md R35, R44). No port carries either: a CYCLE runs the outbound kind of the frame it sends
and the inbound kind of the valid frame it receives.
-/

namespace Sys2Proof.Machine

/-- The outbound service sub-frame as tx holds it, decoded (10_state.md R35). -/
def Context.outboundSdc (c : Context) : SdcRec := decodeSdc (c.tx.readBytes 0 sdcLen)

/-- The SCHED step that sends the given sub-frame; no rule sends another in this state (30_encoding.md R76, R79). -/
def sendSubframe (r : SdcRec) (s : State) : Out :=
  s.unlessMarked fun s =>
    s.andThen (sched s.params s.ctx) fun s =>
      if s.ctx.outboundSdc = r then .next (s.return .noValue) else .refused .subframeNotSent

/-- MATCH on a received sub-frame; it reads no other byte of the frame (43_matcher.md R130). -/
def receiveSubframe (r : SdcRec) (s : State) : Out :=
  s.unlessMarked fun s => s.andThen (matchRec s.ctx r) fun s => .next (s.return .noValue)

/-- SDC.RD.REQ: produced by dispatch of a read item (42_scheduler.md R123). -/
def execSdcRdReq (v : Word16) (a : RegAddr) (rsv : BitVec 2) (s : State) : Out :=
  sendSubframe ⟨v, a, false, false, rsv⟩ s

/-- SDC.WR.REQ: produced by dispatch of a write item (42_scheduler.md R123). -/
def execSdcWrReq (v : Word16) (a : RegAddr) (rsv : BitVec 2) (s : State) : Out :=
  sendSubframe ⟨v, a, true, false, rsv⟩ s

/-- SDC.OUT.ERR: never produced (30_encoding.md R79); it could only be sent as retained content of tx[0..3]. -/
def execSdcOutErr (v : Word16) (a : RegAddr) (w : Bool) (rsv : BitVec 2) (s : State) : Out :=
  sendSubframe ⟨v, a, w, true, rsv⟩ s

/-- SDC.RD.RESP: a read response, accepted or discarded by MATCH (43_matcher.md R130). -/
def execSdcRdResp (v : Word16) (a : RegAddr) (rsv : BitVec 2) (s : State) : Out :=
  receiveSubframe ⟨v, a, false, false, rsv⟩ s

/-- SDC.WR.ECHO: a write confirmation; the echoed value must equal the item's (43_matcher.md R131). -/
def execSdcWrEcho (v : Word16) (a : RegAddr) (rsv : BitVec 2) (s : State) : Out :=
  receiveSubframe ⟨v, a, true, false, rsv⟩ s

/-- SDC.RD.ERR: an error response to a read; the value is the error code (43_matcher.md R132). -/
def execSdcRdErr (v : Word16) (a : RegAddr) (rsv : BitVec 2) (s : State) : Out :=
  receiveSubframe ⟨v, a, false, true, rsv⟩ s

/-- SDC.WR.ERR: an error response to a write; the value is the error code (43_matcher.md R132). -/
def execSdcWrErr (v : Word16) (a : RegAddr) (rsv : BitVec 2) (s : State) : Out :=
  receiveSubframe ⟨v, a, true, true, rsv⟩ s

end Sys2Proof.Machine
end

