-- ==== Sys2Proof/Machine/Reset.lean ====
section
/-!
DEFINITION. RESET: the creation of an Engine Context (70_reset_and_hazards.md R200).
-/

namespace Sys2Proof.Machine

/-- RESET() written out field by field (70_reset_and_hazards.md R200). -/
def createContext : Context where
  items := []
  count := 0
  cursor := 0
  tx := []
  rx := none
  crcFailCount := 0
  transport := .unopened
  events := []
  fault := none
  refused := none

/-- RESET: a new context, with the model parameters, takes the place of the present one. It happens once per context, so it
is no operation on the old one and the old one's marks do not refuse it (70_reset_and_hazards.md R200; log entry 7). -/
def execReset (s : State) : Out := .next ((s.withCtx createContext).return .noValue)

end Sys2Proof.Machine
end

