-- ==== Sys2Proof/Machine/Fetch.lean ====
section
/-!
DEFINITION. How the next operation reaches the block: the port an operation arrives on and its name select it
(30_encoding.md R77). What a CYCLE runs inside itself arrives on no port: SCHED, STAMP, VALIDATE and MATCH, and the sub-frame
kinds in the frames it exchanges.
-/

namespace Sys2Proof.Machine

/-- The port that carries an operation (00_scope.md R7; 30_encoding.md R77); none for what runs only inside CYCLE. -/
def portOf : Instr → Option Port
  | .crc16 _ | .cycle _ | .hOpen _ | .hClose | .hSetCount _ | .hConfig _ _ => some .host
  | .hWriteItem _ _ _ | .hReadItem _ | .hReadCtx | .hWriteTx _ _ | .hReadTx _ | .hReadRx _ => some .host
  | .sdcEnc _ | .sdcDec _ | .outEnc _ | .outDec _ | .inEnc _ | .inDec _ | .reset => some .engine
  | .sched | .stamp | .validate _ | .matchSdc _ => none
  | .sdcRdReq _ _ _ | .sdcWrReq _ _ _ | .sdcOutErr _ _ _ _ => none
  | .sdcRdResp _ _ _ | .sdcWrEcho _ _ _ | .sdcRdErr _ _ _ | .sdcWrErr _ _ _ => none

/-- The operation a request stands for, or why it stands for none. -/
def fetchRequest (r : Request) : Except Refusal Instr :=
  if portOf r.op ≠ some r.port then .error .wrongPort
  else if !r.op.wellFormed then .error .illFormed
  else .ok r.op

/-- The request that carries an operation on its port; none for what runs only inside CYCLE (30_encoding.md R77). -/
def requestOf (i : Instr) : Option Request := (portOf i).map fun p => .operation p i

/-- The CYCLE whose answer is a whole, valid frame that begins with the given sub-frame bytes and carries zeros after them:
how an inbound sub-frame reaches MATCH (43_matcher.md R130; 44_orchestrator.md R145). -/
def cycleThatReceives (sub : List Byte) : Instr :=
  .cycle (.bytes (withChecksum (sub ++ List.replicate (nCovered - sdcLen) 0)))

end Sys2Proof.Machine
end

