-- ==== Sys2Proof/Machine/Dispatch.lean ====
section
/-!
DEFINITION. The one dispatch of the machine: each operation of the opcode table to its meaning.
-/

namespace Sys2Proof.Machine

open Sys2Proof

/-- One operation from a state. -/
def exec (i : Instr) (s : State) : Host.Outcome State Fault Refusal :=
  match i with
  | .sdcRdReq v a r => Sys2Proof.Machine.execSdcRdReq v a r s
  | .sdcWrReq v a r => Sys2Proof.Machine.execSdcWrReq v a r s
  | .sdcOutErr v a w r => Sys2Proof.Machine.execSdcOutErr v a w r s
  | .sdcRdResp v a r => Sys2Proof.Machine.execSdcRdResp v a r s
  | .sdcWrEcho v a r => Sys2Proof.Machine.execSdcWrEcho v a r s
  | .sdcRdErr v a r => Sys2Proof.Machine.execSdcRdErr v a r s
  | .sdcWrErr v a r => Sys2Proof.Machine.execSdcWrErr v a r s
  | .crc16 bs => Sys2Proof.Machine.execCrc16 bs s
  | .stamp => Sys2Proof.Machine.execStamp s
  | .validate f => Sys2Proof.Machine.execValidate f s
  | .sdcEnc r => Sys2Proof.Machine.execSdcEnc r s
  | .sdcDec b => Sys2Proof.Machine.execSdcDec b s
  | .outEnc o => Sys2Proof.Machine.execOutEnc o s
  | .outDec t => Sys2Proof.Machine.execOutDec t s
  | .inEnc r => Sys2Proof.Machine.execInEnc r s
  | .inDec f => Sys2Proof.Machine.execInDec f s
  | .sched => Sys2Proof.Machine.execSched s
  | .matchSdc f => Sys2Proof.Machine.execMatch f s
  | .cycle a => Sys2Proof.Machine.execCycle a s
  | .hOpen o => Sys2Proof.Machine.execHOpen o s
  | .hClose => Sys2Proof.Machine.execHClose s
  | .hSetCount n => Sys2Proof.Machine.execHSetCount n s
  | .hConfig k raw => Sys2Proof.Machine.execHConfig k raw s
  | .hWriteItem k f v => Sys2Proof.Machine.execHWriteItem k f v s
  | .hReadItem k => Sys2Proof.Machine.execHReadItem k s
  | .hReadCtx => Sys2Proof.Machine.execHReadCtx s
  | .hWriteTx o b => Sys2Proof.Machine.execHWriteTx o b s
  | .hReadTx o => Sys2Proof.Machine.execHReadTx o s
  | .hReadRx o => Sys2Proof.Machine.execHReadRx o s
  | .reset => Sys2Proof.Machine.execReset s

end Sys2Proof.Machine
end

