-- ==== Sys2Proof/Machine/Step.lean ====
section
/-!
DEFINITION. One step of the machine: the oldest request at the ports is taken and its operation runs to completion
(20_memory.md R58, R59). With no request waiting the block is at rest and holds its whole state (10_state.md R21;
60_exceptions.md R185).
-/

namespace Sys2Proof.Machine

/-- One step. -/
def step (s : State) : Host.Outcome State Fault Refusal :=
  match s.pending with
  | [] => .next s
  | r :: rest =>
    match fetchRequest r with
    | .ok i => exec i { s with pending := rest }
    | .error why => .refused why

/-- The state with a table word about to arrive as the inbound service sub-frame of the next CYCLE: the transport open, and
the CYCLE that receives it waiting as the next request (log entry 6). -/
def State.withFetchWord (s : State) (nbits w : Nat) : State :=
  { s with
    ctx := { s.ctx with transport := .opened }
    pending := .operation .host (cycleThatReceives (tableWordBytes nbits w)) :: s.pending }

end Sys2Proof.Machine
end

