-- ==== Sys2Proof/Machine/Program.lean ====
section
/-!
DEFINITION. Operation sequences as the spec writes them: the pseudo-operations and byte-sequence names of 30_encoding.md R84
and the line notation of 30_encoding.md R83 (log entry 12). A line stands for the operations it invokes; loading them puts
their requests at the ports.
-/

namespace Sys2Proof.Machine

/-- The pseudo-operations (30_encoding.md R84). -/
inductive Pseudo where
  | arm (i : Nat)
  | clear (i : Nat)
  | abandon (i : Nat)
  | writeTx16 (o : Nat) (v : Nat)
  | readRx16 (o : Nat)
  | readRx32 (o : Nat)
  deriving DecidableEq, Repr

/-- Their expansions, in the order R84 writes the operations. -/
def Pseudo.expand : Pseudo → List Instr
  | .arm i => [.hWriteItem i .completed 0, .hWriteItem i .requested 1]
  | .clear i => [.hWriteItem i .completed 0]
  | .abandon i => [.hWriteItem i .busyCycles 0]
  | .writeTx16 o v => [.hWriteTx o (v % 256), .hWriteTx (o + 1) (v / 256 % 256)]
  | .readRx16 o => [.hReadRx (o + 1), .hReadRx o]
  | .readRx32 o => [.hReadRx (o + 3), .hReadRx (o + 2), .hReadRx (o + 1), .hReadRx o]

/-- The value of H.READRX16 and H.READRX32: the little-endian combination of the bytes read (30_encoding.md R84). -/
def rxValue (m : Memory) (o n : Nat) : Nat := memRead (m.readBytes o n) 0 n

/-- INFRAME(value, addr, write, error, pd): IN.ENC of the record with those sub-frame fields, reserved 0, and the process
data `pd` at offsets 4 to 23 (30_encoding.md R84). -/
def inFrame (value : Word16) (addr : RegAddr) (write error : Bool) (pd : List Byte) : List Byte :=
  inEnc (inDec (encodeSdc ⟨value, addr, write, error, 0⟩ ++ pd))

/-- BADCRC(f): f with bit 0 of byte 25 inverted (30_encoding.md R84). -/
def badCrc (f : List Byte) : List Byte := f.set 25 (byteAt f 25 ^^^ 1#8)

/-- Why a line is no operation. -/
inductive LineError where
  | unknownOperation
  | badOperand
  deriving DecidableEq, Repr

/-- The value of a hexadecimal digit. -/
def hexDigit (ch : Char) : Option Nat :=
  if '0' ≤ ch ∧ ch ≤ '9' then some (ch.toNat - 48)
  else if 'A' ≤ ch ∧ ch ≤ 'F' then some (ch.toNat - 55)
  else if 'a' ≤ ch ∧ ch ≤ 'f' then some (ch.toNat - 87)
  else none

/-- Digits in a base, most significant first, after a value already read. -/
def digitsFrom (base acc : Nat) : List Char → Option Nat
  | [] => some acc
  | ch :: rest =>
    match hexDigit ch with
    | some d => if d < base then digitsFrom base (base * acc + d) rest else none
    | none => none

/-- "Numbers are hexadecimal with 0x, or decimal" (30_encoding.md R83). -/
def readNumber : List Char → Option Nat
  | [] => none
  | ['0', 'x'] => none
  | '0' :: 'x' :: rest => digitsFrom 16 0 rest
  | w => digitsFrom 10 0 w

/-- A two-digit hexadecimal byte (30_encoding.md R83). -/
def readByte : List Char → Option Byte
  | [h, l] => (digitsFrom 16 0 [h, l]).map (BitVec.ofNat 8)
  | _ => none

/-- A byte sequence, lowest offset first (30_encoding.md R83). -/
def readBytes : List (List Char) → Option (List Byte)
  | [] => some []
  | w :: ws =>
    match readByte w, readBytes ws with
    | some b, some bs => some (b :: bs)
    | _, _ => none

/-- The number behind `key=`. -/
def readKeyed (key : String) (w : List Char) : Option Nat :=
  match w.dropWhile (· != '=') with
  | '=' :: v => if w.takeWhile (· != '=') = key.toList then readNumber v else none
  | _ => none

/-- A field name of 10_state.md R23. -/
def readField (w : List Char) : Option ItemField :=
  if w = "address".toList then some .address
  else if w = "value".toList then some .value
  else if w = "factor".toList then some .factor
  else if w = "factor_counter".toList then some .factorCounter
  else if w = "is_write".toList then some .isWrite
  else if w = "requested".toList then some .requested
  else if w = "busy_cycles".toList then some .busyCycles
  else if w = "completed".toList then some .completed
  else if w = "errored".toList then some .errored
  else none

/-- A character that only separates words: white space, and the braces around H.CONFIG's record. -/
def isSeparator (ch : Char) : Bool := ch = ' ' || ch = '\t' || ch = '\r' || ch.toNat = 123 || ch.toNat = 125

/-- The words of a line up to its comment; `;` starts a comment (30_encoding.md R83). -/
def lineWords (line : List Char) : List (List Char) :=
  ((line.takeWhile (· != ';')).splitOnP isSeparator).filter fun w => !w.isEmpty

/-- One number as the only operand. -/
def withNumber (ws : List (List Char)) (k : Nat → List Instr) : Except LineError (List Instr) :=
  match ws.map readNumber with
  | [some n] => .ok (k n)
  | _ => .error .badOperand

/-- Two numbers as the operands. -/
def withNumbers (ws : List (List Char)) (k : Nat → Nat → List Instr) : Except LineError (List Instr) :=
  match ws.map readNumber with
  | [some m, some n] => .ok (k m n)
  | _ => .error .badOperand

/-- No operand. -/
def withNothing (ws : List (List Char)) (i : Instr) : Except LineError (List Instr) :=
  if ws.isEmpty then .ok [i] else .error .badOperand

/-- H.CONFIG's record, keys in the order of 30_encoding.md R83. -/
def readRecord (ws : List (List Char)) : Option RawItem :=
  match List.zipWith readKeyed ["addr", "val", "factor", "fctr", "write", "req", "busy", "done", "err"] ws, ws.length with
  | [some a, some v, some f, some g, some w, some r, some b, some d, some e], 9 => some ⟨a, v, f, g, w, r, b, d, e⟩
  | _, _ => none

/-- H.WRITEITEM's `field=v`. -/
def readAssignment (w : List Char) : Option (ItemField × Nat) :=
  match readField (w.takeWhile (· != '=')), w.dropWhile (· != '=') with
  | some f, '=' :: v => (readNumber v).map fun n => (f, n)
  | _, _ => none

/-- CYCLE's operand: `fail`, or `rx=` and the answer's bytes. -/
def readAnswer : List (List Char) → Option Answer
  | [] => none
  | w :: ws =>
    if w = "fail".toList ∧ ws = [] then some .fail
    else match w with
      | 'r' :: 'x' :: '=' :: b => (readBytes (b :: ws)).map .bytes
      | _ => none

/-- The operation a name and its operand words invoke (30_encoding.md R83, R84). -/
def readOperation (name : List Char) (ws : List (List Char)) : Except LineError (List Instr) :=
  if name = "RESET".toList then withNothing ws .reset
  else if name = "H.OPEN".toList then
    if ws = ["ok".toList] then .ok [.hOpen .ok]
    else if ws = ["fail".toList] then .ok [.hOpen .fail]
    else .error .badOperand
  else if name = "H.CLOSE".toList then withNothing ws .hClose
  else if name = "H.SETCOUNT".toList then withNumber ws fun n => [.hSetCount n]
  else if name = "H.CONFIG".toList then
    match (ws.head?.bind readNumber), readRecord ws.tail with
    | some k, some r => .ok [.hConfig k r]
    | _, _ => .error .badOperand
  else if name = "H.WRITEITEM".toList then
    match ws.map readNumber, ws.map readAssignment with
    | [some k, _], [_, some (f, v)] => .ok [.hWriteItem k f v]
    | _, _ => .error .badOperand
  else if name = "H.READITEM".toList then withNumber ws fun k => [.hReadItem k]
  else if name = "H.READCTX".toList then withNothing ws .hReadCtx
  else if name = "H.WRITETX".toList then withNumbers ws fun o b => [.hWriteTx o b]
  else if name = "H.READTX".toList then withNumber ws fun o => [.hReadTx o]
  else if name = "H.READRX".toList then withNumber ws fun o => [.hReadRx o]
  else if name = "CYCLE".toList then
    match readAnswer ws with
    | some a => .ok [.cycle a]
    | none => .error .badOperand
  else if name = "CRC16".toList then
    match readBytes ws with
    | some bs => .ok [.crc16 bs]
    | none => .error .badOperand
  else if name = "ARM".toList then withNumber ws fun i => (Pseudo.arm i).expand
  else if name = "CLEAR".toList then withNumber ws fun i => (Pseudo.clear i).expand
  else if name = "ABANDON".toList then withNumber ws fun i => (Pseudo.abandon i).expand
  else if name = "H.WRITETX16".toList then withNumbers ws fun o v => (Pseudo.writeTx16 o v).expand
  else if name = "H.READRX16".toList then withNumber ws fun o => (Pseudo.readRx16 o).expand
  else if name = "H.READRX32".toList then withNumber ws fun o => (Pseudo.readRx32 o).expand
  else .error .unknownOperation

/-- The operations of one line; a line with no word has none. -/
def readLine (line : List Char) : Except LineError (List Instr) :=
  match lineWords line with
  | [] => .ok []
  | name :: ws => readOperation name ws

/-- The operations of a list of lines, in order, or the first error. -/
def readLines : List (List Char) → Except LineError (List Instr)
  | [] => .ok []
  | l :: ls =>
    match readLine l, readLines ls with
    | .ok xs, .ok ys => .ok (xs ++ ys)
    | .error e, _ => .error e
    | .ok _, .error e => .error e

/-- The operations of a program text, one line after another (30_encoding.md R83). -/
def readProgram (text : List Char) : Except LineError (List Instr) := readLines (text.splitOn '\n')

/-- The machine with operations waiting at its ports behind those already there. -/
def State.load (s : State) (ops : List Instr) : State :=
  { s with pending := s.pending ++ ops.filterMap requestOf }

end Sys2Proof.Machine
end

