-- ==== Sys2Proof/Safety.lean ====
section
/-!
DEFINITION. What claims call a good state: the ranges and the invariants the spec states for a context and its history, and
when a run has ended normally.
-/

namespace Sys2Proof.Machine

/-- The storage of a context is canonical: frame buffers and item table (equal contents are equal data). -/
def Context.Stored (c : Context) : Prop :=
  c.tx.wf ∧ (∀ m, c.rx = some m → m.wf) ∧ Rising c.items

/-- The ranges of 10_state.md R22 and R23: every slot, count, cursor and counter within its bound. -/
def Context.InRange (p : Params) (c : Context) : Prop :=
  (∀ k it, c.item? k = some it → k < p.sdcCapacity ∧ it.busyCycles ≤ p.busySat) ∧
  c.count ≤ p.sdcCapacity ∧ c.cursor < p.sdcCapacity ∧ c.crcFailCount ≤ p.crcFailSat

/-- Every slot in use holds an item (45_host.md R153; 10_state.md R46). -/
def Context.Configured (c : Context) : Prop := ∀ k, k < c.count → (c.item? k).isSome

/-- "at most one slot has busy_cycles > 0, and that slot's index is cursor" (10_state.md R43). -/
def Context.Serial (c : Context) : Prop :=
  ∀ k it, c.item? k = some it → 0 < it.busyCycles → k = c.cursor

/-- The outbound sub-frame has error 0 and reserved 00 (30_encoding.md R78, R79). -/
def Context.OutboundClean (c : Context) : Prop := (c.txByte 3).extractLsb' 5 3 = 0#3

/-- A frame fit to be on the wire outbound: whole, with a valid checksum, error 0 and reserved 00. -/
def SentFrame (f : List Byte) : Prop :=
  f.length = nFrame ∧ validate f = true ∧ (byteAt f 3).extractLsb' 5 3 = 0#3

/-- Every exchange on record sent a whole, stamped, clean frame (44_orchestrator.md R142; 30_encoding.md R79) and was
answered by `Fail` or a whole frame (00_scope.md R8). -/
def Context.HistoryOk (c : Context) : Prop :=
  ∀ sent answer, Event.exchange sent answer ∈ c.events → SentFrame sent ∧ answer.wellFormed = true

/-- rx is a frame that passed VALIDATE (10_state.md R37). -/
def Context.RxValidated (c : Context) : Prop := ∀ m, c.rx = some m → validate m.frame = true

/-- The invariant of one context with its parameters. -/
structure Context.Inv (p : Params) (c : Context) : Prop where
  params : p.Wf
  stored : c.Stored
  inRange : c.InRange p
  configured : c.Configured
  serial : c.Serial
  outboundClean : c.OutboundClean
  historyOk : c.HistoryOk
  rxValidated : c.RxValidated

/-- The invariant of the machine. -/
def State.Inv (s : State) : Prop := s.ctx.Inv s.params

/-- SCHED finds its cursor in the table or the table empty (42_scheduler.md R120). -/
def Context.CursorInTable (c : Context) : Prop := c.count = 0 ∨ c.cursor < c.count

/-- "the faulted state is never a normal final state" (60_exceptions.md R178); a refused one is none either (R179). -/
def State.NormalFinal (s : State) : Prop := s.pending = [] ∧ s.ctx.marked = false

/-- The parts of a state that a frame names: the item table by slot, the outbound frame by byte, and every other field. -/
inductive Part where
  | slots
  | bytes
  | count
  | cursor
  | rx
  | crcFailCount
  | transport
  | events
  | fault
  | refused
  | params
  | pending
  deriving DecidableEq, Repr

/-- A part reads the same in two states: every slot, every byte of the outbound frame, or the field. -/
def Part.Same (s t : State) : Part → Prop
  | .slots => ∀ k, t.ctx.item? k = s.ctx.item? k
  | .bytes => ∀ o, t.ctx.txByte o = s.ctx.txByte o
  | .count => t.ctx.count = s.ctx.count
  | .cursor => t.ctx.cursor = s.ctx.cursor
  | .rx => t.ctx.rx = s.ctx.rx
  | .crcFailCount => t.ctx.crcFailCount = s.ctx.crcFailCount
  | .transport => t.ctx.transport = s.ctx.transport
  | .events => t.ctx.events = s.ctx.events
  | .fault => t.ctx.fault = s.ctx.fault
  | .refused => t.ctx.refused = s.ctx.refused
  | .params => t.params = s.params
  | .pending => t.pending = s.pending

/-- Every part but the named ones reads the same: "Every field a rule does not name keeps its value" (00_scope.md R13). -/
def KeepsAllBut (parts : List Part) (s t : State) : Prop := ∀ p, p ∉ parts → p.Same s t

/-- The operation only returns a value. -/
def Returns (i : Instr) (s : State) (r : Result) : Prop := exec i s = .next { s with result := some r }

/-- The operation ends in the refusal outcome with a reason, writing nothing else (60_exceptions.md R179). -/
def RefusedWith (i : Instr) (s : State) (why : RefuseReason) : Prop :=
  exec i s = .next { s with ctx := { s.ctx with refused := some why }, result := some (.refusedFor why) }

/-- Slot `j` is the first eligible one from the cursor on, inclusive, wrapping (42_scheduler.md R122). -/
def FirstEligible (c : Context) (j : Nat) (it : Item) : Prop :=
  ∃ d, d < c.count ∧ j = (c.cursor + d) % c.count ∧ c.item? j = some it ∧ (0 < it.factor ∨ it.requested = true) ∧
    ∀ e, e < d → ∃ it', c.item? ((c.cursor + e) % c.count) = some it' ∧ it'.factor = 0 ∧ it'.requested = false

/-- Every slot in use holds an item, and none of them is eligible. -/
def NoneEligible (c : Context) : Prop :=
  ∀ k, k < c.count → ∃ it, c.item? k = some it ∧ it.factor = 0 ∧ it.requested = false

/-- SCHED can take its scan: an unmarked context whose cursor is in the table on an item that is not in flight. -/
def State.CanScan (s : State) : Prop :=
  s.ctx.marked = false ∧ s.ctx.cursor < s.ctx.count ∧
    ∃ cur, s.ctx.item? s.ctx.cursor = some cur ∧ cur.busyCycles = 0

/-- The state after SCHED and STAMP of a CYCLE, when SCHED does not fault (20_memory.md R60). -/
def CycleFront (s u : State) : Prop :=
  ∃ s1, exec .sched s = .next s1 ∧ s1.ctx.marked = false ∧ exec .stamp s1 = .next u

/-- MATCH's discard conditions (43_matcher.md R131): another address, another write flag, or a write confirmation with
another value. -/
def Discards (it : Item) (r : SdcRec) : Prop :=
  r.address ≠ it.address ∨ r.write ≠ it.isWrite ∨ r.write = true ∧ r.error = false ∧ r.value ≠ it.value

/-- Dispatches one after another, each accepted by the MATCH that follows it, with the slots they served, oldest first: SCHED
and an accepting MATCH in turn, as CYCLEs run them (42_scheduler.md R124). -/
inductive AcceptedDispatches : State → List Nat → State → Prop
  | nil (s : State) : AcceptedDispatches s [] s
  | cons {s t u w : State} {j : Nat} {js : List Nat} {it : Item} {f : List Byte} (hs : s.CanScan)
      (hj : FirstEligible s.ctx j it) (ht : exec .sched s = .next t) (hf : f.length = nFrame)
      (ha : ¬ Discards it (decodeSdc (f.take sdcLen))) (hu : exec (.matchSdc f) t = .next u)
      (rest : AcceptedDispatches u js w) : AcceptedDispatches s (j :: js) w

/-- What runs only inside CYCLE: SCHED, STAMP, VALIDATE, MATCH, and the sub-frame kinds in the frames a CYCLE exchanges
(30_encoding.md R77; 40_checksum.md R102, R103). -/
def RunsInsideCycle (i : Instr) : Prop :=
  i = .sched ∨ i = .stamp ∨ (∃ f, i = .validate f) ∨ (∃ f, i = .matchSdc f) ∨ (encode i).isSome = true

/-- The operations that run SCHED or MATCH: those two, CYCLE, and the sub-frame kinds. -/
def MovesCursor (i : Instr) : Prop :=
  i = .sched ∨ (∃ f, i = .matchSdc f) ∨ (∃ a, i = .cycle a) ∨ (encode i).isSome = true

/-- The operations that run SCHED: it, CYCLE and the outbound sub-frame kinds. -/
def Schedules (i : Instr) : Prop :=
  i = .sched ∨ (∃ a, i = .cycle a) ∨ ∃ bs, encode i = some (.outbound, bs)

/-- Forget what no rule of the engine reads of a table: factor beyond being 0 or not, and factor_counter
(10_state.md R26, R27). -/
def Item.forgetRate (it : Item) : Item := { it with factor := min it.factor 1, factorCounter := 0 }

/-- `Item.forgetRate` on every slot. -/
def State.forgetRates (s : State) : State :=
  { s with ctx := { s.ctx with items := s.ctx.items.map fun e => (e.1, e.2.forgetRate) } }

/-- An outcome with its state changed. -/
def mapNext (f : State → State) : Out → Out
  | .next t => .next (f t)
  | .fault r => .fault r
  | .refused r => .refused r

/-- The number of SdcTimeout events in a sequence. -/
def timeouts (es : List Event) : Nat :=
  es.countP fun e => match e with
    | .diag (.sdcTimeout _ _) => true
    | _ => false

end Sys2Proof.Machine
end

