-- ==== Sys2Proof/Certificates/Slice0/Obligations.lean ====
section
/-!
DEFINITION. The statements for the provers. Each names the rule or sections of spec/ it formalises.
-/

open Sys2Proof Sys2Proof.Machine

/-! ### Encoding -/

/-- R71, R76, R110, R111: encoding a sub-frame kind and decoding the bytes gives it back, every operand at every value,
whatever bytes follow. -/
def Obligations.SubframeDecodeEncode : Prop :=
  ∀ (i : Instr) (d : Direction) (bs rest : List Byte),
    encode i = some (d, bs) → decodeSubframe d (bs ++ rest) = .ok (i, rest)

/-- The match and mask of a sub-frame kind over S = LE32(frame, 0), as R76's table has them. -/
def Sys2Proof.Machine.tableRow : Instr → Option (Direction × Word32 × Word32)
  | .sdcRdReq _ _ _ => some (.outbound, 0x00000000#32, 0x30000000#32)
  | .sdcWrReq _ _ _ => some (.outbound, 0x10000000#32, 0x30000000#32)
  | .sdcOutErr _ _ _ _ => some (.outbound, 0x20000000#32, 0x20000000#32)
  | .sdcRdResp _ _ _ => some (.inbound, 0x00000000#32, 0x30000000#32)
  | .sdcWrEcho _ _ _ => some (.inbound, 0x10000000#32, 0x30000000#32)
  | .sdcRdErr _ _ _ => some (.inbound, 0x20000000#32, 0x30000000#32)
  | .sdcWrErr _ _ _ => some (.inbound, 0x30000000#32, 0x30000000#32)
  | _ => none

/-- R76: in each direction every 32-bit pattern decodes to exactly one kind, the one whose table row matches; value, address,
write, error and reserved are S[15:0], S[27:16], S[28], S[29] and S[31:30]; all zeros is a read of address 0. -/
def Obligations.EveryPatternIsOneKind : Prop :=
  (∀ (d : Direction) (b0 b1 b2 b3 : Byte),
    let S : Word32 := b3 ++ b2 ++ b1 ++ b0
    ∃ i m k, decodeSubframe d [b0, b1, b2, b3] = .ok (i, []) ∧ tableRow i = some (d, m, k) ∧ S &&& k = m ∧
      i.sdcFields = some (d, ⟨S.extractLsb' 0 16, S.extractLsb' 16 12, S.getLsbD 28, S.getLsbD 29, S.extractLsb' 30 2⟩) ∧
      (∀ j m' k', tableRow j = some (d, m', k') → S &&& k' = m' → (m', k') = (m, k)) ∧
      ∀ j, encode j = some (d, [b0, b1, b2, b3]) → j = i) ∧
  decodeSubframe .outbound [0, 0, 0, 0] = .ok (.sdcRdReq 0 0 0, []) ∧
  decodeSubframe .inbound [0, 0, 0, 0] = .ok (.sdcRdResp 0 0 0, [])

/-- Words written out from R71's byte layout decode to the kinds they stand for (a sanity statement). -/
def Obligations.DecodedWords : Prop :=
  decodeSubframe .outbound [0x01, 0x00, 0x0A, 0x10] = .ok (.sdcWrReq 0x0001 0x00A 0, []) ∧
  decodeSubframe .inbound [0x34, 0x12, 0x01, 0xC0] = .ok (.sdcRdResp 0x1234 0x001 3, []) ∧
  decodeSubframe .inbound [0x03, 0x00, 0x20, 0x20] = .ok (.sdcRdErr 0x0003 0x020 0, []) ∧
  decodeSubframe .inbound [0x09, 0x00, 0x0A, 0x30] = .ok (.sdcWrErr 0x0009 0x00A 0, []) ∧
  decodeSubframe .outbound [0xFF, 0xFF, 0xFF, 0xFF] = .ok (.sdcOutErr 0xFFFF 0xFFF true 3, [])

/-- R71, R110, R111: SDC.ENC returns the four bytes of R71's layout and SDC.DEC the fields at their bits; neither writes
any state. -/
def Obligations.SdcCodecLayout : Prop :=
  ∀ s : State, s.ctx.marked = false →
    (∀ r : SdcRec, Returns (.sdcEnc r) s (.bytes
      [r.value.extractLsb' 0 8, r.value.extractLsb' 8 8, r.address.extractLsb' 0 8,
       r.reserved ++ BitVec.ofBool r.error ++ BitVec.ofBool r.write ++ r.address.extractLsb' 8 4])) ∧
    ∀ b0 b1 b2 b3 : Byte, Returns (.sdcDec [b0, b1, b2, b3]) s (.sdcRecord
      { value := b1 ++ b0
        address := b3.extractLsb' 0 4 ++ b2
        write := b3.getLsbD 4
        error := b3.getLsbD 5
        reserved := b3.extractLsb' 6 2 })

/-- R116: the round-trip laws of the sub-frame codec and of both frame codecs. -/
def Obligations.CodecRoundTrips : Prop :=
  (∀ r : SdcRec, decodeSdc (encodeSdc r) = r) ∧
  (∀ b : List Byte, b.length = sdcLen → encodeSdc (decodeSdc b) = b) ∧
  (∀ o : OutRec, outDec (outEnc o) = o ∧ crcField (outEnc o) = crc16 ((outEnc o).take 24)) ∧
  (∀ r : InRec, inDec (inEnc r) = r ∧ crcField (inEnc r) = crc16 ((inEnc r).take 24)) ∧
  (∀ t : List Byte, t.length = nFrame → (outEnc (outDec t)).take 24 = t.take 24) ∧
  (∀ f : List Byte, f.length = nFrame → (inEnc (inDec f)).take 24 = f.take 24)

/-- R113, R115, over the tables of R72 and R73: OUT.DEC and IN.DEC return every field as the little-endian number at its
offset and width, and the checksum field unchecked; they write no state. -/
def Obligations.FrameDecodersReadTheLayout : Prop :=
  ∀ (s : State) (f : List Byte), s.ctx.marked = false → f.length = nFrame →
    (∃ o c, Returns (.outDec f) s (.outRecord o c) ∧ o.sdc = decodeSdc (f.take 4) ∧
      o.control.toNat = memRead f 4 1 ∧ o.ledMask.toNat = memRead f 5 1 ∧ o.ledValue.toNat = memRead f 6 1 ∧
      o.dout.toNat = memRead f 7 1 ∧ o.pwmDiv1.toNat = memRead f 8 2 ∧ o.pwmDc1.toNat = memRead f 10 2 ∧
      o.pwmDc2.toNat = memRead f 12 2 ∧ o.pwmDc3.toNat = memRead f 14 2 ∧ o.pwmDiv2.toNat = memRead f 16 2 ∧
      o.pwmDc4.toNat = memRead f 18 2 ∧ o.aout1.toNat = memRead f 20 2 ∧ o.aout2.toNat = memRead f 22 2 ∧
      c.toNat = memRead f 24 2) ∧
    ∃ r c, Returns (.inDec f) s (.inRecord r c) ∧ r.sdc = decodeSdc (f.take 4) ∧
      r.status.toNat = memRead f 4 1 ∧ r.reserved16.toNat = memRead f 5 2 ∧ r.din.toNat = memRead f 7 1 ∧
      r.cnt1.toNat = memRead f 8 4 ∧ r.cnt2.toNat = memRead f 12 4 ∧ r.cnt3.toNat = memRead f 16 4 ∧
      r.ain1.toNat = memRead f 20 2 ∧ r.ain2.toNat = memRead f 22 2 ∧ c.toNat = memRead f 24 2

/-- R112, R114, R101: OUT.ENC and IN.ENC return 26 bytes with every field at its offset, a checksum over bytes 0 to 23 in
bytes 24 and 25 that VALIDATE accepts, and write no state; re-encoding a decoded frame restamps its first 24 bytes. -/
def Obligations.FrameEncodersWriteTheLayout : Prop :=
  ∀ s : State, s.ctx.marked = false →
    (∀ o : OutRec, ∃ f, Returns (.outEnc o) s (.bytes f) ∧ f.length = nFrame ∧ f.take 4 = encodeSdc o.sdc ∧
      memRead f 4 1 = o.control.toNat ∧ memRead f 5 1 = o.ledMask.toNat ∧ memRead f 6 1 = o.ledValue.toNat ∧
      memRead f 7 1 = o.dout.toNat ∧ memRead f 8 2 = o.pwmDiv1.toNat ∧ memRead f 10 2 = o.pwmDc1.toNat ∧
      memRead f 12 2 = o.pwmDc2.toNat ∧ memRead f 14 2 = o.pwmDc3.toNat ∧ memRead f 16 2 = o.pwmDiv2.toNat ∧
      memRead f 18 2 = o.pwmDc4.toNat ∧ memRead f 20 2 = o.aout1.toNat ∧ memRead f 22 2 = o.aout2.toNat ∧
      memRead f 24 2 = (crc16 (f.take 24)).toNat ∧ validate f = true) ∧
    (∀ r : InRec, ∃ f, Returns (.inEnc r) s (.bytes f) ∧ f.length = nFrame ∧ f.take 4 = encodeSdc r.sdc ∧
      memRead f 4 1 = r.status.toNat ∧ memRead f 5 2 = r.reserved16.toNat ∧ memRead f 7 1 = r.din.toNat ∧
      memRead f 8 4 = r.cnt1.toNat ∧ memRead f 12 4 = r.cnt2.toNat ∧ memRead f 16 4 = r.cnt3.toNat ∧
      memRead f 20 2 = r.ain1.toNat ∧ memRead f 22 2 = r.ain2.toNat ∧
      memRead f 24 2 = (crc16 (f.take 24)).toNat ∧ validate f = true) ∧
    ∀ t : List Byte, t.length = nFrame → validate t = true → outEnc (outDec t) = t ∧ inEnc (inDec t) = t

/-! ### Checksum -/

/-- The table-driven form of one byte of CRC16 (R100). -/
def Sys2Proof.Machine.crcByteTable (table : Byte → Word16) (c : Word16) (b : Byte) : Word16 :=
  (c >>> 8) ^^^ table (c.setWidth 8 ^^^ b)

/-- R100: CRC16 returns the checksum and writes nothing; it is 0xFFFF of no bytes and goes on byte by byte by the
pseudocode's loop; a table-driven form computes the same function; it depends on every byte and on their order; the check
value and the worked example. -/
def Obligations.ChecksumFunction : Prop :=
  (∀ (s : State) (bs : List Byte), s.ctx.marked = false → Returns (.crc16 bs) s (.checksum (crc16 bs))) ∧
  crc16 [] = 0xFFFF#16 ∧
  (∀ (bs : List Byte) (b : Byte), crc16 (bs ++ [b]) =
    (List.range 8).foldl (fun c _ => if c.getLsbD 0 then (c >>> 1) ^^^ 0xA001#16 else c >>> 1)
      (crc16 bs ^^^ b.setWidth 16)) ∧
  (∃ table : Byte → Word16, ∀ bs : List Byte, crc16 bs = bs.foldl (crcByteTable table) 0xFFFF#16) ∧
  (∀ (l r : List Byte) (x y : Byte), x ≠ y → crc16 (l ++ x :: r) ≠ crc16 (l ++ y :: r)) ∧
  (∀ (l r : List Byte) (x y : Byte), x ≠ y → crc16 (l ++ x :: y :: r) ≠ crc16 (l ++ y :: x :: r)) ∧
  crc16 [0x31, 0x32, 0x33, 0x34, 0x35, 0x36, 0x37, 0x38, 0x39] = 0x4B37#16 ∧
  crc16 [0x01, 0x03, 0x00, 0x00, 0x00, 0x01] = 0x0A84#16

/-- R102: STAMP writes the checksum of tx[0..23] into tx[24] and tx[25], low byte first, and nothing else; VALIDATE accepts
the stamped frame. -/
def Obligations.StampWritesTheChecksum : Prop :=
  ∀ s : State, s.ctx.marked = false → s.ctx.tx.wf →
    ∃ t, exec .stamp s = .next t ∧
      t.ctx.txByte 24 = (crc16 (s.ctx.tx.frame.take 24)).extractLsb' 0 8 ∧
      t.ctx.txByte 25 = (crc16 (s.ctx.tx.frame.take 24)).extractLsb' 8 8 ∧
      (∀ o, o ≠ 24 → o ≠ 25 → t.ctx.txByte o = s.ctx.txByte o) ∧
      validate t.ctx.tx.frame = true ∧ KeepsAllBut [.bytes] s t

/-- R103: VALIDATE returns whether CRC16 of bytes 0 to 23 equals the little-endian field at 24, writes nothing, and accepts
exactly the frames whose CRC16 over all 26 bytes is zero. -/
def Obligations.ValidateEqualsResidueZero : Prop :=
  ∀ (s : State) (f : List Byte), s.ctx.marked = false → f.length = nFrame →
    ∃ b, Returns (.validate f) s (.verdict b) ∧
      (b = true ↔ (crc16 (f.take 24)).toNat = memRead f 24 2) ∧ (b = true ↔ crc16 f = 0#16)

/-- R104: inverting any one bit of a frame VALIDATE accepts makes it rejected, and a bit of bytes 0 to 23 changes their
checksum; yet two different frames with the same checksum field both pass, so it is no guarantee. -/
def Obligations.SingleBitFlipIsDetected : Prop :=
  (∀ (f : List Byte) (k b : Nat), f.length = nFrame → validate f = true → k < nFrame → b < 8 →
    validate (f.set k (byteAt f k ^^^ (1#8 <<< b))) = false ∧
    (k < 24 → crc16 ((f.set k (byteAt f k ^^^ (1#8 <<< b))).take 24) ≠ crc16 (f.take 24))) ∧
  ∃ f g : List Byte, f.length = nFrame ∧ g.length = nFrame ∧ f.take 24 ≠ g.take 24 ∧
    crcField f = crcField g ∧ validate f = true ∧ validate g = true

/-! ### Scheduler -/

/-- R120, R122: SCHED does nothing on an empty table, and nothing after a full wrap that finds no eligible slot. -/
def Obligations.SchedIdle : Prop :=
  ∀ s : State, (s.ctx.marked = false → s.ctx.count = 0 → Returns .sched s .noValue) ∧
    (s.CanScan → NoneEligible s.ctx → Returns .sched s .noValue)

/-- R30, R121: with the cursor's item in flight, SCHED increments its busy_cycles, saturating at BUSY_SAT, appends SdcTimeout
exactly when the value changes to 10, and changes nothing else; the item stays busy. -/
def Obligations.SchedBusyBranch : Prop :=
  ∀ (s : State) (it : Item), s.ctx.marked = false → s.ctx.cursor < s.ctx.count →
    s.ctx.item? s.ctx.cursor = some it → 0 < it.busyCycles →
    ∃ t, exec .sched s = .next t ∧
      t.ctx.item? s.ctx.cursor = some { it with busyCycles := min (it.busyCycles + 1) s.params.busySat } ∧
      t.ctx.events = s.ctx.events ++
        (if min (it.busyCycles + 1) s.params.busySat ≠ it.busyCycles ∧ min (it.busyCycles + 1) s.params.busySat = 10
         then [.diag (.sdcTimeout s.ctx.cursor it.address)] else []) ∧
      (∀ k, k ≠ s.ctx.cursor → t.ctx.item? k = s.ctx.item? k) ∧ KeepsAllBut [.slots, .events] s t

/-- R122, R123: with the cursor's item not in flight, SCHED dispatches the first eligible slot from the cursor on: the four
sub-frame bytes with error 0 and the reserved bits kept, busy_cycles 1, requested 0, cursor there; nothing else changes. -/
def Obligations.SchedDispatchesFirstEligible : Prop :=
  ∀ (s : State) (j : Nat) (it : Item), s.CanScan → s.ctx.tx.wf → FirstEligible s.ctx j it →
    ∃ t, exec .sched s = .next t ∧
      t.ctx.txByte 0 = it.value.extractLsb' 0 8 ∧ t.ctx.txByte 1 = it.value.extractLsb' 8 8 ∧
      t.ctx.txByte 2 = it.address.extractLsb' 0 8 ∧
      t.ctx.txByte 3 = (s.ctx.txByte 3).extractLsb' 6 2 ++ 0#1 ++ BitVec.ofBool it.isWrite ++ it.address.extractLsb' 8 4 ∧
      (∀ o, 4 ≤ o → t.ctx.txByte o = s.ctx.txByte o) ∧
      t.ctx.item? j = some { it with busyCycles := 1, requested := false } ∧
      (∀ k, k ≠ j → t.ctx.item? k = s.ctx.item? k) ∧
      t.ctx.cursor = j ∧ KeepsAllBut [.slots, .bytes, .cursor] s t

/-- R178: with count > 0 and cursor ≥ count, SCHED and an open CYCLE set ctx.fault and write nothing else; every operation on
that context after it but RESET, which makes a new context (log entry 7), is refused and writes nothing, the pure ones included
(log entry 9, the model's reading). -/
def Obligations.CursorOutOfRangeFaults : Prop :=
  ∀ (s : State) (i : Instr), s.ctx.marked = false → 0 < s.ctx.count → s.ctx.count ≤ s.ctx.cursor →
    (i = .sched ∨ s.ctx.transport = .opened ∧ ∃ a, i = .cycle a) →
    ∃ t, t = { s with ctx := { s.ctx with fault := some .cursorOutOfRange }, result := some (.faulted .cursorOutOfRange) } ∧
      exec i s = .next t ∧ ¬ t.NormalFinal ∧
      ∀ j, j ≠ .reset → Returns j t (.refusedFor .afterFaultOrRefusal)

/-- Log entry 5, the model's choice: when SCHED dispatches a read item (R123), SDC.RD.REQ with its value and address (and the
kept reserved bits) is that step; when it dispatches a write item, SDC.WR.REQ is. -/
def Obligations.DispatchSendsTheRequest : Prop :=
  ∀ (s : State) (j : Nat) (it : Item), s.CanScan → s.ctx.tx.wf → FirstEligible s.ctx j it →
    ∃ t, exec .sched s = .next t ∧ t.ctx.cursor = j ∧
      (it.isWrite = false → exec (.sdcRdReq it.value it.address ((s.ctx.txByte 3).extractLsb' 6 2)) s = .next t) ∧
      (it.isWrite = true → exec (.sdcWrReq it.value it.address ((s.ctx.txByte 3).extractLsb' 6 2)) s = .next t)

/-- Log entry 5, the model's choice: when SCHED dispatches nothing (empty table, cursor's item in flight, nothing eligible),
the outbound kind whose bytes tx[0..3] retains is sent again: its step is that SCHED step, and tx keeps every byte. -/
def Obligations.RetainedSubframeIsResent : Prop :=
  ∀ (s : State) (i : Instr), s.ctx.marked = false → s.ctx.tx.wf →
    (s.ctx.count = 0 ∨ s.ctx.cursor < s.ctx.count ∧
      ((∃ it, s.ctx.item? s.ctx.cursor = some it ∧ 0 < it.busyCycles) ∨ NoneEligible s.ctx)) →
    encode i = some (.outbound, [s.ctx.txByte 0, s.ctx.txByte 1, s.ctx.txByte 2, s.ctx.txByte 3]) →
    ∃ t, exec .sched s = .next t ∧ exec i s = .next t ∧ Part.Same s t .bytes ∧ t.ctx.cursor = s.ctx.cursor

/-- R79 with log entry 5, the model's choice of the refusal: while the outbound error bit is 0, as RESET and every dispatch
leave it, SDC.OUT.ERR is sent by no rule. -/
def Obligations.OutErrIsNeverSent : Prop :=
  ∀ (s : State) (v : Word16) (a : RegAddr) (w : Bool) (r : BitVec 2), s.ctx.marked = false → s.ctx.Configured →
    s.ctx.CursorInTable → s.ctx.tx.wf → (s.ctx.txByte 3).getLsbD 5 = false →
    exec (.sdcOutErr v a w r) s = .refused .subframeNotSent

/-! ### Matcher -/

/-- R130, R134: with the table empty or the cursor out of range, MATCH does nothing. -/
def Obligations.MatchNothingOutstanding : Prop :=
  ∀ (s : State) (f : List Byte), s.ctx.marked = false → f.length = nFrame →
    s.ctx.count = 0 ∨ s.ctx.count ≤ s.ctx.cursor → Returns (.matchSdc f) s .noValue

/-- R131: a response whose address or write bit differs from the cursor's item, or a write confirmation whose value differs,
is discarded with no state change and no event; no other response is discarded. -/
def Obligations.MatchDiscards : Prop :=
  ∀ (s : State) (f : List Byte) (it : Item), s.ctx.marked = false → f.length = nFrame →
    s.ctx.cursor < s.ctx.count → s.ctx.item? s.ctx.cursor = some it →
    (Discards it (decodeSdc (f.take 4)) → Returns (.matchSdc f) s .noValue) ∧
    (¬ Discards it (decodeSdc (f.take 4)) → ∃ t it', exec (.matchSdc f) s = .next t ∧
      t.ctx.item? s.ctx.cursor = some it' ∧ it'.completed = true ∧ it'.busyCycles = 0)

/-- R132, R133, R134: every other response is accepted, in flight or not: the item's four fields, the cursor one on modulo
count, SdcError exactly when the error is new; nothing else changes, the reserved bits decide nothing. -/
def Obligations.MatchAccepts : Prop :=
  ∀ (s : State) (f : List Byte) (r : SdcRec) (it : Item), s.ctx.marked = false → f.length = nFrame →
    r = decodeSdc (f.take 4) → s.ctx.cursor < s.ctx.count → s.ctx.item? s.ctx.cursor = some it → ¬ Discards it r →
    ∃ t, exec (.matchSdc f) s = .next t ∧
      t.ctx.item? s.ctx.cursor =
        some { it with busyCycles := 0, completed := true, value := r.value, errored := r.error } ∧
      t.ctx.cursor = (s.ctx.cursor + 1) % s.ctx.count ∧
      t.ctx.events = s.ctx.events ++
        (if r.error = true ∧ (it.errored = false ∨ it.value ≠ r.value)
         then [.diag (.sdcError s.ctx.cursor it.address r.value)] else []) ∧
      (∀ k, k ≠ s.ctx.cursor → t.ctx.item? k = s.ctx.item? k) ∧ KeepsAllBut [.slots, .cursor, .events] s t

/-- Log entry 5, the model's choice: an inbound kind (SDC.RD.RESP, SDC.WR.ECHO, SDC.RD.ERR, SDC.WR.ERR) is the MATCH step of
a frame that begins with its four bytes, whatever bytes follow; it completes wherever the cursor's slot holds an item, and
where R131 does not discard it, its item takes its value and its error bit. -/
def Obligations.InboundKindIsItsMatch : Prop :=
  ∀ (s : State) (i : Instr) (bs rest : List Byte) (it : Item), encode i = some (.inbound, bs) → rest.length = 22 →
    s.ctx.marked = false → s.ctx.cursor < s.ctx.count → s.ctx.item? s.ctx.cursor = some it →
    ∃ t, exec i s = .next t ∧ exec (.matchSdc (bs ++ rest)) s = .next t ∧
      ∀ v a w e rsv, i.sdcFields = some (.inbound, ⟨v, a, w, e, rsv⟩) → ¬ Discards it ⟨v, a, w, e, rsv⟩ →
        t.ctx.item? s.ctx.cursor = some { it with busyCycles := 0, completed := true, value := v, errored := e }

/-- R135: in a CYCLE an item becomes completed only with the inbound sub-frame's value; a write item becomes completed without
error only when that value is the one it held. -/
def Obligations.CompletionTakesTheInboundValue : Prop :=
  ∀ (s t : State) (f : List Byte) (k : Nat) (it it' : Item), f.length = nFrame →
    exec (.cycle (.bytes f)) s = .next t → s.ctx.item? k = some it → t.ctx.item? k = some it' →
    it.completed = false → it'.completed = true →
    it'.value.toNat = memRead f 0 2 ∧ (it.isWrite = true → it'.errored = false → it'.value = it.value)

/-! ### Orchestrator -/

/-- R141: a CYCLE while the transport is not open returns NOT_READY and writes nothing. -/
def Obligations.CycleNotReady : Prop :=
  ∀ (s : State) (a : Answer), s.ctx.marked = false → s.ctx.transport ≠ .opened → Returns (.cycle a) s .notReady

/-- R143: when the transport answers Fail, the CYCLE returns XFER_FAIL; what SCHED and STAMP did stays done, the exchange is
recorded, and nothing else is written. -/
def Obligations.CycleTransportFailure : Prop :=
  ∀ s u : State, s.ctx.marked = false → s.ctx.transport = .opened → CycleFront s u →
    exec (.cycle .fail) s = .next
      { u with
        ctx := { u.ctx with events := u.ctx.events ++ [.exchange u.ctx.tx.frame .fail] }
        result := some .xferFail }

/-- R144: when the answer fails VALIDATE, the CYCLE returns CRC_FAIL with the failure counter incremented (saturating) and
CrcMismatch exactly when it was 0; rx is unchanged and MATCH does not run. -/
def Obligations.CycleChecksumFailure : Prop :=
  ∀ (s u : State) (f : List Byte), s.ctx.marked = false → s.ctx.transport = .opened → CycleFront s u →
    f.length = nFrame → validate f = false →
    exec (.cycle (.bytes f)) s = .next
      { u with
        ctx := { u.ctx with
          events := u.ctx.events ++ [.exchange u.ctx.tx.frame (.bytes f)] ++
            (if u.ctx.crcFailCount = 0 then [.diag .crcMismatch] else [])
          crcFailCount := min (u.ctx.crcFailCount + 1) u.params.crcFailSat }
        result := some .crcFail }

/-- R145: when the answer passes VALIDATE, the CYCLE returns OK: CrcRecovered(N) if N > 0, the counter 0, all 26 bytes in rx,
then MATCH on them. -/
def Obligations.CycleSuccess : Prop :=
  ∀ (s u w : State) (f : List Byte), s.ctx.marked = false → s.ctx.transport = .opened → CycleFront s u →
    f.length = nFrame → validate f = true →
    exec (.matchSdc f)
      { u with
        ctx := { u.ctx with
          events := u.ctx.events ++ [.exchange u.ctx.tx.frame (.bytes f)] ++
            (if 0 < u.ctx.crcFailCount then [.diag (.crcRecovered u.ctx.crcFailCount)] else [])
          crcFailCount := 0
          rx := some (Memory.ofFrame f) } } = .next w →
    exec (.cycle (.bytes f)) s = .next { w with result := some .ok } ∧
    ∃ m, w.ctx.rx = some m ∧ m.frame = f

/-- R146, R175: from every state with the invariant and no mark, every CYCLE completes with exactly one result, the first that
applies: NOT_READY, the cursor fault, XFER_FAIL, CRC_FAIL, OK. -/
def Obligations.CycleCompletesWithOneResult : Prop :=
  ∀ (s : State) (a : Answer), s.Inv → s.ctx.marked = false → a.wellFormed = true →
    ∃ t, exec (.cycle a) s = .next t ∧ t.result = some (
      if s.ctx.transport ≠ .opened then .notReady
      else if 0 < s.ctx.count ∧ s.ctx.count ≤ s.ctx.cursor then .faulted .cursorOutOfRange
      else match a with
        | .fail => .xferFail
        | .bytes f => if validate f then .ok else .crcFail) ∧
      (t.ctx.marked = true ↔ t.result = some (.faulted .cursorOutOfRange))

/-- R175: the events of one CYCLE are appended in the order SdcTimeout, Exchange, CrcMismatch or CrcRecovered, SdcError, at
most one of each. -/
def Obligations.CycleEventOrder : Prop :=
  ∀ (s t : State) (a : Answer), exec (.cycle a) s = .next t →
    ∃ l1 l2 l3 l4 : List Event, t.ctx.events = s.ctx.events ++ l1 ++ l2 ++ l3 ++ l4 ∧
      l1.length ≤ 1 ∧ l2.length ≤ 1 ∧ l3.length ≤ 1 ∧ l4.length ≤ 1 ∧
      (∀ e ∈ l1, ∃ k ad, e = .diag (.sdcTimeout k ad)) ∧
      (∀ e ∈ l2, ∃ sent, e = .exchange sent a) ∧
      (∀ e ∈ l3, e = .diag .crcMismatch ∨ ∃ n, e = .diag (.crcRecovered n)) ∧
      ∀ e ∈ l4, ∃ k ad code, e = .diag (.sdcError k ad code)

/-- R207: a CYCLE whose answer already carries a matching sub-frame dispatches an item and accepts it in the same cycle. -/
def Obligations.SameCycleResponseIsAccepted : Prop :=
  ∀ (s : State) (j : Nat) (it : Item) (r : SdcRec) (rest : List Byte), s.CanScan → s.ctx.transport = .opened →
    FirstEligible s.ctx j it → (encodeSdc r ++ rest).length = nFrame → validate (encodeSdc r ++ rest) = true →
    ¬ Discards it r →
    ∃ t, exec (.cycle (.bytes (encodeSdc r ++ rest))) s = .next t ∧ t.result = some .ok ∧
      t.ctx.cursor = (j + 1) % s.ctx.count ∧
      t.ctx.item? j = some { it with
        busyCycles := 0, requested := false, completed := true, value := r.value, errored := r.error }

/-- R121, R208, for CYCLEs answered Fail: an item dispatched and never answered stays busy: after n such CYCLEs its busy_cycles is
n + 1 or BUSY_SAT, the cursor and tx[0..3] have not moved, and SdcTimeout has been appended once if n ≥ 9 and never before. -/
def Obligations.StuckItemTimesOutOnce : Prop :=
  ∀ (s : State) (it : Item) (n : Nat), s.ctx.marked = false → s.ctx.cursor < s.ctx.count →
    s.ctx.transport = .opened → s.ctx.tx.wf → busyTimeout ≤ s.params.busySat →
    s.ctx.item? s.ctx.cursor = some it → it.busyCycles = 1 →
    s.pending = List.replicate n (.operation .host (.cycle .fail)) →
    ∃ t, core.run n s = .next t ∧
      t.ctx.item? s.ctx.cursor = some { it with busyCycles := min (n + 1) s.params.busySat } ∧
      t.ctx.cursor = s.ctx.cursor ∧ (∀ o, o < 4 → t.ctx.txByte o = s.ctx.txByte o) ∧
      timeouts t.ctx.events = timeouts s.ctx.events + (if 9 ≤ n then 1 else 0)

/-- How many slots ahead of the cursor a slot lies, counted around the table. -/
def Sys2Proof.Machine.slotsAhead (c : Context) (k : Nat) : Nat := (k + c.count - c.cursor) % c.count

/-- R124: round robin. A dispatch serves no slot farther ahead than an eligible slot k, and when the dispatch of another slot
is accepted, k is still as it was and strictly fewer slots ahead of the cursor; and of count accepted dispatches in a row one
serves k. -/
def Obligations.AcceptedDispatchesComeCloser : Prop :=
  (∀ (s : State) (j k : Nat) (it itk : Item) (f : List Byte), s.CanScan → FirstEligible s.ctx j it →
    k < s.ctx.count → s.ctx.item? k = some itk → (0 < itk.factor ∨ itk.requested = true) → j ≠ k →
    f.length = nFrame → ¬ Discards it (decodeSdc (f.take 4)) →
    ∃ t u, exec .sched s = .next t ∧ t.ctx.cursor = j ∧ exec (.matchSdc f) t = .next u ∧ u.ctx.item? k = some itk ∧
      u.ctx.count = s.ctx.count ∧ slotsAhead s.ctx j < slotsAhead s.ctx k ∧ slotsAhead u.ctx k < slotsAhead s.ctx k) ∧
  ∀ (s w : State) (js : List Nat) (k : Nat) (it : Item), AcceptedDispatches s js w → k < s.ctx.count →
    s.ctx.item? k = some it → (0 < it.factor ∨ it.requested = true) → s.ctx.count ≤ js.length → k ∈ js.take s.ctx.count

/-! ### Host port -/

/-- R151, R152: H.OPEN opens an unopened transport or reports SETUP_FAIL with the diagnostic and leaves it unopened; H.CLOSE
closes an open one; each is refused in every other transport state; nothing else changes. -/
def Obligations.OpenAndCloseTheTransport : Prop :=
  ∀ s : State, s.ctx.marked = false →
    (s.ctx.transport = .unopened →
      exec (.hOpen .ok) s = .next { s with ctx := { s.ctx with transport := .opened }, result := some .ok } ∧
      exec (.hOpen .fail) s = .next
        { s with ctx := { s.ctx with events := s.ctx.events ++ [.diag .setupFailure] }, result := some .setupFail }) ∧
    (∀ o, s.ctx.transport ≠ .unopened → RefusedWith (.hOpen o) s .openNotAllowed) ∧
    (s.ctx.transport = .opened →
      exec .hClose s = .next { s with ctx := { s.ctx with transport := .closed }, result := some .ok }) ∧
    (s.ctx.transport ≠ .opened → RefusedWith .hClose s .closeNotOpen)

/-- R153: H.SETCOUNT writes count only, the cursor not, when n is within capacity and every slot below n is configured;
otherwise it is refused, CountTooLarge before UnconfiguredSlot. -/
def Obligations.SetCountWritesCountOnly : Prop :=
  ∀ (s : State) (n : Nat), s.ctx.marked = false →
    (s.params.sdcCapacity < n → RefusedWith (.hSetCount n) s .countTooLarge) ∧
    (n ≤ s.params.sdcCapacity → (∃ k, k < n ∧ s.ctx.item? k = none) → RefusedWith (.hSetCount n) s .unconfiguredSlot) ∧
    (n ≤ s.params.sdcCapacity → (∀ k, k < n → s.ctx.item? k ≠ none) →
      exec (.hSetCount n) s = .next { s with ctx := { s.ctx with count := n }, result := some .ok })

/-- A record H.CONFIG admits apart from its slot (R154). -/
def Sys2Proof.Machine.RecordFits (r : RawItem) : Prop :=
  r.address ≤ 0xFFF ∧ r.value ≤ 0xFFFF ∧ r.busyCycles = 0 ∧
    r.isWrite ≤ 1 ∧ r.requested ≤ 1 ∧ r.completed ≤ 1 ∧ r.errored ≤ 1

/-- R154: H.CONFIG writes all nine fields of one slot within capacity, busy or not, and nothing else; otherwise it is refused,
the first reason of the rule's order that applies. -/
def Obligations.ConfigWritesOneSlot : Prop :=
  ∀ (s : State) (k : Nat) (r : RawItem), s.ctx.marked = false →
    (s.params.sdcCapacity ≤ k → RefusedWith (.hConfig k r) s .slotOutOfRange) ∧
    (k < s.params.sdcCapacity →
      (0xFFF < r.address → RefusedWith (.hConfig k r) s .addressTooWide) ∧
      (r.address ≤ 0xFFF → 0xFFFF < r.value → RefusedWith (.hConfig k r) s .valueTooWide) ∧
      (r.address ≤ 0xFFF → r.value ≤ 0xFFFF → r.busyCycles ≠ 0 → RefusedWith (.hConfig k r) s .busyWrite) ∧
      (r.address ≤ 0xFFF → r.value ≤ 0xFFFF → r.busyCycles = 0 → ¬ RecordFits r → RefusedWith (.hConfig k r) s .notABit) ∧
      (RecordFits r → ∃ t it, exec (.hConfig k r) s = .next t ∧ t.result = some .ok ∧ t.ctx.item? k = some it ∧
        it.address.toNat = r.address ∧ it.value.toNat = r.value ∧ it.factor = r.factor ∧
        it.factorCounter = r.factorCounter ∧ it.isWrite.toNat = r.isWrite ∧ it.requested.toNat = r.requested ∧
        it.busyCycles = 0 ∧ it.completed.toNat = r.completed ∧ it.errored.toNat = r.errored ∧
        (∀ j, j ≠ k → t.ctx.item? j = s.ctx.item? j) ∧ KeepsAllBut [.slots] s t))

/-- The number a field of an item holds (R23). -/
def Sys2Proof.Machine.fieldNat (it : Item) : ItemField → Nat
  | .address => it.address.toNat
  | .value => it.value.toNat
  | .factor => it.factor
  | .factorCounter => it.factorCounter
  | .isWrite => it.isWrite.toNat
  | .requested => it.requested.toNat
  | .busyCycles => it.busyCycles
  | .completed => it.completed.toNat
  | .errored => it.errored.toNat

/-- The largest number a field's width admits (R23); none for the unbounded naturals. -/
def Sys2Proof.Machine.fieldBound : ItemField → Option Nat
  | .address => some 0xFFF
  | .value => some 0xFFFF
  | .factor | .factorCounter | .busyCycles => none
  | .isWrite | .requested | .completed | .errored => some 1

/-- R155: H.WRITEITEM writes one field of one configured slot and nothing else; it is refused on an unconfigured slot, for a
busy_cycles other than 0 and for a value outside the field's width, in that order. -/
def Obligations.WriteItemWritesOneField : Prop :=
  ∀ (s : State) (k : Nat) (field : ItemField) (v : Nat), s.ctx.marked = false →
    (s.params.sdcCapacity ≤ k ∨ s.ctx.item? k = none → RefusedWith (.hWriteItem k field v) s .unconfiguredSlot) ∧
    ∀ it, k < s.params.sdcCapacity → s.ctx.item? k = some it →
      (field = .busyCycles → v ≠ 0 → RefusedWith (.hWriteItem k field v) s .busyWrite) ∧
      (∀ b, fieldBound field = some b → b < v → RefusedWith (.hWriteItem k field v) s .outOfRange) ∧
      ((field = .busyCycles → v = 0) → (∀ b, fieldBound field = some b → v ≤ b) →
        ∃ t it', exec (.hWriteItem k field v) s = .next t ∧ t.result = some .ok ∧ t.ctx.item? k = some it' ∧
          fieldNat it' field = v ∧ (∀ g, g ≠ field → fieldNat it' g = fieldNat it g) ∧
          (∀ j, j ≠ k → t.ctx.item? j = s.ctx.item? j) ∧ KeepsAllBut [.slots] s t)

/-- R156, R157, R159, R160: H.READITEM returns the nine fields of a configured slot, H.READCTX the context fields, H.READTX and
H.READRX one byte of a frame; none changes any state; other operands are refused by name, as is rx before its first value. -/
def Obligations.HostReadsReturnAndChangeNothing : Prop :=
  ∀ s : State, s.ctx.marked = false →
    Returns .hReadCtx s (.context ⟨s.ctx.count, s.ctx.cursor, s.ctx.crcFailCount, s.ctx.transport, s.ctx.events⟩) ∧
    (∀ k it, k < s.params.sdcCapacity → s.ctx.item? k = some it → Returns (.hReadItem k) s (.item it)) ∧
    (∀ k, s.params.sdcCapacity ≤ k ∨ s.ctx.item? k = none → RefusedWith (.hReadItem k) s .unconfiguredSlot) ∧
    (∀ o, o < nFrame → Returns (.hReadTx o) s (.byte (s.ctx.txByte o))) ∧
    (∀ o, nFrame ≤ o → RefusedWith (.hReadTx o) s .outOfRange ∧ RefusedWith (.hReadRx o) s .outOfRange) ∧
    (∀ o m, o < nFrame → s.ctx.rx = some m → Returns (.hReadRx o) s (.byte (m.read o))) ∧
    ∀ o, o < nFrame → s.ctx.rx = none → RefusedWith (.hReadRx o) s .rxEmpty

/-- R158: H.WRITETX writes one byte of the process data, offsets 4 to 23, and nothing else; the sub-frame and the checksum are
refused, then a byte above 0xFF. -/
def Obligations.WriteTxWritesProcessData : Prop :=
  ∀ (s : State) (o b : Nat), s.ctx.marked = false → s.ctx.tx.wf →
    (o < 4 ∨ 23 < o → RefusedWith (.hWriteTx o b) s .txRegionProtected) ∧
    (4 ≤ o → o ≤ 23 → 0xFF < b → RefusedWith (.hWriteTx o b) s .outOfRange) ∧
    (4 ≤ o → o ≤ 23 → b ≤ 0xFF → ∃ t, exec (.hWriteTx o b) s = .next t ∧ t.result = some .ok ∧
      (t.ctx.txByte o).toNat = b ∧ (∀ p, p ≠ o → t.ctx.txByte p = s.ctx.txByte p) ∧ KeepsAllBut [.bytes] s t)

/-- R179: an operation on a context that carries a mark, other than RESET, which makes a new context (log entry 7), ends in
AfterFaultOrRefusal and writes nothing, the pure operations included (log entry 9, the model's reading); an operation that sets
the refused mark writes nothing else of the context. -/
def Obligations.RefusalWritesOnlyItsMark : Prop :=
  ∀ (s : State) (i : Instr), i ≠ .reset →
    (s.ctx.marked = true → Returns i s (.refusedFor .afterFaultOrRefusal)) ∧
    ∀ t why, s.ctx.marked = false → exec i s = .next t → t.ctx.refused = some why → RefusedWith i s why

/-- R84: ARM writes completed 0 then requested 1 and leaves the rest of the item; CLEAR writes completed 0; ABANDON writes
busy_cycles 0; H.WRITETX16 leaves its 16-bit value, little-endian, at its offset; every other slot and byte is as before. -/
def Obligations.PseudoOperations : Prop :=
  ∀ (s : State) (k : Nat) (it : Item), s.ctx.marked = false → k < s.params.sdcCapacity → s.ctx.item? k = some it →
    s.ctx.tx.wf → s.pending = [] →
    (∃ t, core.run 2 (s.load (Pseudo.arm k).expand) = .next t ∧
      t.ctx.item? k = some { it with completed := false, requested := true } ∧
      (∀ j, j ≠ k → t.ctx.item? j = s.ctx.item? j) ∧ KeepsAllBut [.slots] s t) ∧
    (∃ t, core.run 1 (s.load (Pseudo.clear k).expand) = .next t ∧
      t.ctx.item? k = some { it with completed := false } ∧
      (∀ j, j ≠ k → t.ctx.item? j = s.ctx.item? j) ∧ KeepsAllBut [.slots] s t) ∧
    (∃ t, core.run 1 (s.load (Pseudo.abandon k).expand) = .next t ∧
      t.ctx.item? k = some { it with busyCycles := 0 } ∧
      (∀ j, j ≠ k → t.ctx.item? j = s.ctx.item? j) ∧ KeepsAllBut [.slots] s t) ∧
    ∀ o v, 4 ≤ o → o ≤ 22 → v ≤ 0xFFFF → ∃ t, core.run 2 (s.load (Pseudo.writeTx16 o v).expand) = .next t ∧
      memRead t.ctx.tx.frame o 2 = v ∧ (∀ p, p ≠ o → p ≠ o + 1 → t.ctx.txByte p = s.ctx.txByte p) ∧
      KeepsAllBut [.bytes] s t

/-! ### Reset and lifetime -/

/-- R200: RESET leaves a context with every slot without a value, count and cursor 0, tx all zero, rx without a value, the
counter 0, the transport unopened, no event and no mark; the parameters stay. -/
def Obligations.ResetCreatesTheContext : Prop :=
  ∀ s : State, ∃ t, exec .reset s = .next t ∧ (∀ k, t.ctx.item? k = none) ∧ t.ctx.count = 0 ∧ t.ctx.cursor = 0 ∧
    (∀ o, t.ctx.txByte o = 0) ∧ t.ctx.rx = none ∧ t.ctx.crcFailCount = 0 ∧ t.ctx.transport = .unopened ∧
    t.ctx.events = [] ∧ t.ctx.fault = none ∧ t.ctx.refused = none ∧ t.params = s.params

/-- R46: the machine's reset state holds the table's values, and its host reads are R200's worked example. -/
def Obligations.ResetStateReads : Prop :=
  (∀ k, State.reset.ctx.item? k = none) ∧ (∀ o, State.reset.ctx.txByte o = 0) ∧ State.reset.ctx.rx = none ∧
  Returns .hReadCtx State.reset (.context ⟨0, 0, 0, .unopened, []⟩) ∧
  Returns (.hReadTx 24) State.reset (.byte 0) ∧ RefusedWith (.hReadRx 0) State.reset .rxEmpty ∧
  State.reset.ctx.fault = none ∧ State.reset.ctx.refused = none

/-- R39: the transport goes from Unopened to Open by a successful H.OPEN and from Open to Closed by H.CLOSE, and no other
operation on the context writes it; a CYCLE gets past its first step only when it is Open. -/
def Obligations.TransportLife : Prop :=
  (∀ (s t : State) (i : Instr), i ≠ .reset → exec i s = .next t →
    t.ctx.transport = s.ctx.transport ∨
      (s.ctx.transport = .unopened ∧ t.ctx.transport = .opened ∧ i = .hOpen .ok) ∨
      (s.ctx.transport = .opened ∧ t.ctx.transport = .closed ∧ i = .hClose)) ∧
  ∀ (s t : State) (a : Answer), exec (.cycle a) s = .next t → t.ctx ≠ s.ctx → s.ctx.transport = .opened

/-- R204: shrinking the table to or below the cursor is admitted and leaves the cursor; the next open CYCLE faults. -/
def Obligations.ShrinkUnderTheCursorFaults : Prop :=
  ∀ (s : State) (n : Nat) (a : Answer), s.ctx.marked = false → s.ctx.transport = .opened → 0 < n → n ≤ s.ctx.cursor →
    n ≤ s.params.sdcCapacity → (∀ k, k < n → s.ctx.item? k ≠ none) →
    ∃ t u, exec (.hSetCount n) s = .next t ∧ t.ctx.cursor = s.ctx.cursor ∧ exec (.cycle a) t = .next u ∧
      u.ctx.fault = some .cursorOutOfRange ∧ u.ctx.events = s.ctx.events

/-! ### Frames, invariants and whole-machine rules -/

/-- The invariant of every context holds after RESET. -/
def Obligations.ResetHasTheInvariant : Prop := State.reset.Inv

/-- Every step keeps the invariant: canonical storage, the ranges of R22 and R23, configured slots in use, R43's single busy
slot, R78 and R79's clean outbound bits, a valid rx, and a history of whole, stamped, clean sent frames. -/
def Obligations.StepKeepsTheInvariant : Prop := ∀ s t : State, s.Inv → step s = .next t → t.Inv

/-- From a state with the invariant no operation faults the machine: SCHED and MATCH never come to a slot that holds no value
(the fault of log entry 10, the model's). Only an outbound sub-frame kind can be refused by it (subframeNotSent of log entry 5,
the model's choice). -/
def Obligations.InvariantNeverStops : Prop :=
  ∀ (s : State) (i : Instr), s.Inv →
    (∃ t, exec i s = .next t) ∨ (∃ bs, encode i = some (.outbound, bs)) ∧ exec i s = .refused .subframeNotSent

/-- R43: whatever requests arrive at the ports after RESET, at most one slot is ever busy, and it is the cursor's. -/
def Obligations.AtMostOneBusySlotInEveryRun : Prop :=
  ∀ (requests : List Request) (n : Nat) (t : State), core.run n { State.reset with pending := requests } = .next t →
    ∀ j k it it', t.ctx.item? j = some it → 0 < it.busyCycles → t.ctx.item? k = some it' → 0 < it'.busyCycles →
      j = k ∧ k = t.ctx.cursor

/-- R79, R142: whatever requests arrive after RESET, every frame ever sent is 26 bytes with a valid checksum, its error bit 0
and its reserved bits 00, so no SDC.OUT.ERR is ever sent. -/
def Obligations.EverySentFrameIsStampedAndClean : Prop :=
  ∀ (requests : List Request) (n : Nat) (t : State), core.run n { State.reset with pending := requests } = .next t →
    ∀ sent answer, .exchange sent answer ∈ t.ctx.events →
      sent.length = nFrame ∧ validate sent = true ∧ ∃ (v : Word16) (a : RegAddr) (w : Bool),
        decodeSubframe .outbound (sent.take 4) = .ok (if w then .sdcWrReq v a 0 else .sdcRdReq v a 0, [])

/-- R36: events only grow: what an operation finds in the sequence stays there, in order. -/
def Obligations.EventsAreAppendOnly : Prop :=
  ∀ (s t : State) (i : Instr), i ≠ .reset → exec i s = .next t → ∃ l, t.ctx.events = s.ctx.events ++ l

/-- R33, R34, R38, R39 and R41: who writes the context's scalar fields; and no operation writes the parameters. -/
def Obligations.ScalarFieldWriters : Prop :=
  ∀ (s t : State) (i : Instr), exec i s = .next t →
    t.params = s.params ∧ t.pending = s.pending ∧
    (i ≠ .reset →
      (t.ctx.count ≠ s.ctx.count → ∃ n, i = .hSetCount n ∧ t.ctx.count = n) ∧
      (t.ctx.cursor ≠ s.ctx.cursor → MovesCursor i) ∧
      (t.ctx.crcFailCount ≠ s.ctx.crcFailCount → ∃ f, i = .cycle (.bytes f)) ∧
      (t.ctx.fault ≠ s.ctx.fault → Schedules i))

/-- R35: each region of tx has its own writers: SCHED the sub-frame, the host the process data, STAMP the checksum. -/
def Obligations.TxRegionsHaveTheirWriters : Prop :=
  ∀ (s t : State) (i : Instr) (o : Nat), i ≠ .reset → s.ctx.tx.wf → exec i s = .next t →
    t.ctx.txByte o ≠ s.ctx.txByte o →
    (o < 4 ∧ Schedules i) ∨ (4 ≤ o ∧ o ≤ 23 ∧ ∃ b, i = .hWriteTx o b) ∨
    ((o = 24 ∨ o = 25) ∧ (i = .stamp ∨ ∃ a, i = .cycle a))

/-- R37: rx changes only in a CYCLE that returns OK, which overwrites it wholesale with the received, valid bytes. -/
def Obligations.RxIsWrittenByOkCyclesOnly : Prop :=
  ∀ (s t : State) (i : Instr), i ≠ .reset → i.wellFormed = true → exec i s = .next t →
    (t.ctx.rx ≠ s.ctx.rx → ∃ a, i = .cycle a ∧ t.result = some .ok) ∧
    ∀ f, i = .cycle (.bytes f) → t.result = some .ok →
      validate f = true ∧ ∃ m, t.ctx.rx = some m ∧ ∀ o, o < nFrame → m.read o = byteAt f o

/-- R24, R26, R27, R28, R29, R31: no operation but H.CONFIG, H.WRITEITEM and RESET writes an item's address, factor,
factor_counter or is_write, sets requested, clears completed, or configures or empties a slot. -/
def Obligations.EngineItemAccess : Prop :=
  ∀ (s t : State) (i : Instr) (k : Nat), i ≠ .reset → (∀ r, i ≠ .hConfig k r) → (∀ f v, i ≠ .hWriteItem k f v) →
    exec i s = .next t →
    (s.ctx.item? k = none → t.ctx.item? k = none) ∧
    ∀ it, s.ctx.item? k = some it → ∃ it', t.ctx.item? k = some it' ∧ it'.address = it.address ∧
      it'.factor = it.factor ∧ it'.factorCounter = it.factorCounter ∧ it'.isWrite = it.isWrite ∧
      (it'.requested = true → it.requested = true) ∧ (it.completed = true → it'.completed = true)

/-- R26, R27, R125: factor beyond being 0 or not, and factor_counter, influence nothing: forgetting them before a SCHED, a
MATCH, a CYCLE or a sub-frame kind gives the same outcome as forgetting them after. -/
def Obligations.RatesInfluenceNothing : Prop :=
  ∀ (s : State) (i : Instr), MovesCursor i → exec i s.forgetRates = mapNext State.forgetRates (exec i s)

/-- The diagnostics that crc_fail_count throttles (R38): CrcMismatch and CrcRecovered. -/
def Sys2Proof.Machine.isCrcDiagnostic : Event → Bool
  | .diag .crcMismatch => true
  | .diag (.crcRecovered _) => true
  | _ => false

/-- R38: crc_fail_count influences only whether a CYCLE appends CrcMismatch and CrcRecovered, and its own next value: with
another count in its place the result, every other field and every other event appended are the same. -/
def Obligations.CrcFailCountOnlyThrottles : Prop :=
  ∀ (s t : State) (n : Nat) (a : Answer), exec (.cycle a) s = .next t →
    ∃ (t' : State) (l l' : List Event), exec (.cycle a) { s with ctx := { s.ctx with crcFailCount := n } } = .next t' ∧
      t' = { t with ctx := { t.ctx with crcFailCount := t'.ctx.crcFailCount, events := t'.ctx.events } } ∧
      t.ctx.events = s.ctx.events ++ l ∧ t'.ctx.events = s.ctx.events ++ l' ∧
      l.filter (!isCrcDiagnostic ·) = l'.filter (!isCrcDiagnostic ·) ∧
      (t.result = some .ok → t'.ctx.crcFailCount = 0)

/-- R56: host reads and CRC16 change no state, and a host write repeated with the same operands leaves the same context as
done once. -/
def Obligations.ReadsArePureAndWritesIdempotent : Prop :=
  (∀ (s t : State) (i : Instr),
    ((∃ bs, i = .crc16 bs) ∨ (∃ k, i = .hReadItem k) ∨ i = .hReadCtx ∨ (∃ o, i = .hReadTx o) ∨ ∃ o, i = .hReadRx o) →
    exec i s = .next t → t.ctx.marked = false → t.ctx = s.ctx) ∧
  ∀ (s t : State) (i : Instr),
    ((∃ n, i = .hSetCount n) ∨ (∃ k r, i = .hConfig k r) ∨ (∃ k f v, i = .hWriteItem k f v) ∨ ∃ o b, i = .hWriteTx o b) →
    s.ctx.Stored → exec i s = .next t → t.ctx.marked = false → exec i t = .next t

/-- What R145 leaves before MATCH runs, from the state after SCHED and STAMP: the exchange on record, CrcRecovered(N) if N > 0,
the counter 0, the received bytes in rx. -/
def Sys2Proof.Machine.receivedState (u : State) (f : List Byte) : State :=
  { u with
    ctx := { u.ctx with
      events := u.ctx.events ++ [.exchange u.ctx.tx.frame (.bytes f)] ++
        (if 0 < u.ctx.crcFailCount then [.diag (.crcRecovered u.ctx.crcFailCount)] else [])
      crcFailCount := 0
      rx := some (Memory.ofFrame f) } }

/-- R76, R77 with log entry 5, the model's choice: a CYCLE runs the sub-frame kinds inside itself. The outbound kind of the
frame it sends is its SCHED step, and that frame goes on record; the inbound kind of a valid frame it receives is its MATCH
step. -/
def Obligations.CycleRunsTheSubframesItCarries : Prop :=
  ∀ s s1 u : State, s.ctx.marked = false → s.ctx.transport = .opened → s.ctx.tx.wf → exec .sched s = .next s1 →
    s1.ctx.marked = false → exec .stamp s1 = .next u →
    (∃ j tail, decodeSubframe .outbound u.ctx.tx.frame = .ok (j, tail) ∧ exec j s = .next s1) ∧
    (∀ a t, exec (.cycle a) s = .next t → Event.exchange u.ctx.tx.frame a ∈ t.ctx.events) ∧
    ∀ (f rest : List Byte) (i : Instr) (w : State), f.length = nFrame → validate f = true →
      decodeSubframe .inbound f = .ok (i, rest) → exec i (receivedState u f) = .next w →
      exec (.cycle (.bytes f)) s = .next { w with result := some .ok }

/-- Frame buffers are canonical: two that read the same at every offset are the same data (the model's representation). -/
def Obligations.EqualReadsAreEqualMemory : Prop :=
  ∀ m m' : Memory, m.wf → m'.wf → (∀ o, m.read o = m'.read o) → m = m'

/-- R58 over the queue of requests, the model's choice (log entry 2): a step whose oldest request is a well-formed operation on
its port runs exactly it, with that request gone from the ports, and with no request the block rests. Every operation has its
port or runs only inside CYCLE: R77 says the latter of SCHED, MATCH and STAMP, R103 calls VALIDATE internal to CYCLE. The model's
choices are that the sub-frame kinds run there too (log entry 5), that what runs there has a meaning of its own but is refused
wrongPort on every port (log entries 5, 8), and the engine port that carries RESET and the codec (log entry 13). -/
def Obligations.StepRunsTheRequestedOperation : Prop :=
  (∀ i : Instr, (∃ p, portOf i = some p) ∨ RunsInsideCycle i) ∧
  (∀ (i : Instr) (p : Port), i.wellFormed = true → portOf i = some p →
    ∀ (s : State) (rest : List Request), s.pending = .operation p i :: rest → step s = exec i { s with pending := rest }) ∧
  (∀ (i : Instr) (p : Port), RunsInsideCycle i →
    ∀ (s : State) (rest : List Request), s.pending = .operation p i :: rest → step s = .refused .wrongPort) ∧
  ∀ s : State, s.pending = [] → step s = .next s
end

