-- ==== Sys2Proof/Laws/Bits.lean ====
section
/-!
SUPPORT. Bit by bit: the concatenations that the little-endian and service sub-frame layouts are made of
(20_memory.md R50; 30_encoding.md R71).
-/

namespace Sys2Proof

theorem getLsbD_word16 (h l : Byte) (i : Nat) :
    (h ++ l : Word16).getLsbD i = if i < 8 then l.getLsbD i else h.getLsbD (i - 8) :=
  BitVec.getLsbD_append.trans (by simp)

theorem getLsbD_word32 (b3 b2 b1 b0 : Byte) (i : Nat) :
    (b3 ++ b2 ++ b1 ++ b0 : Word32).getLsbD i =
      if i < 8 then b0.getLsbD i else if i < 16 then b1.getLsbD (i - 8)
      else if i < 24 then b2.getLsbD (i - 16) else b3.getLsbD (i - 24) := by
  refine BitVec.getLsbD_append.trans ?_
  rw [show (b3 ++ b2 ++ b1).getLsbD (i - 8) = _ from BitVec.getLsbD_append,
    show (b3 ++ b2).getLsbD (i - 8 - 8) = _ from BitVec.getLsbD_append]
  grind

theorem getLsbD_sdcWord1 (rs : BitVec 2) (e w : Bool) (a : RegAddr) (i : Nat) :
    (rs ++ BitVec.ofBool e ++ BitVec.ofBool w ++ a : Word16).getLsbD i =
      if i < 12 then a.getLsbD i else if i = 12 then w else if i = 13 then e else rs.getLsbD (i - 14) := by
  refine BitVec.getLsbD_append.trans ?_
  rw [show (rs ++ BitVec.ofBool e ++ BitVec.ofBool w).getLsbD (i - 12) = _ from BitVec.getLsbD_append,
    show (rs ++ BitVec.ofBool e).getLsbD (i - 12 - 1) = _ from BitVec.getLsbD_append]
  simp only [BitVec.getLsbD_ofBool]
  grind

theorem getLsbD_sdcByte3 (rs : BitVec 2) (e w : Bool) (a : BitVec 4) (i : Nat) :
    (rs ++ BitVec.ofBool e ++ BitVec.ofBool w ++ a : Byte).getLsbD i =
      if i < 4 then a.getLsbD i else if i = 4 then w else if i = 5 then e else rs.getLsbD (i - 6) := by
  refine BitVec.getLsbD_append.trans ?_
  rw [show (rs ++ BitVec.ofBool e ++ BitVec.ofBool w).getLsbD (i - 4) = _ from BitVec.getLsbD_append,
    show (rs ++ BitVec.ofBool e).getLsbD (i - 4 - 1) = _ from BitVec.getLsbD_append]
  simp only [BitVec.getLsbD_ofBool]
  grind

/-- Two bytes written little-endian read back as the number they were (20_memory.md R50). -/
theorem le16_leBytes16 (v : Word16) (rest : List Byte) : le16 (leBytes16 v ++ rest) 0 = v := by
  show (v.extractLsb' 8 8 ++ v.extractLsb' 0 8 : Word16) = v
  apply BitVec.eq_of_getLsbD_eq
  intro i hi
  rw [getLsbD_word16]
  simp only [BitVec.getLsbD_extractLsb']
  grind

/-- The little-endian number of two bytes is written as those bytes. -/
theorem leBytes16_word16 (b0 b1 : Byte) : leBytes16 (b1 ++ b0 : Word16) = [b0, b1] := by
  unfold leBytes16 byteOf
  congr 1
  · apply BitVec.eq_of_getLsbD_eq; intro i hi
    rw [BitVec.getLsbD_extractLsb', getLsbD_word16]; simp [hi]
  · congr 1; apply BitVec.eq_of_getLsbD_eq; intro i hi
    rw [BitVec.getLsbD_extractLsb', getLsbD_word16]; simp [hi]

/-- Four bytes written little-endian read back as the number they were. -/
theorem le32_leBytes32 (v : Word32) (rest : List Byte) : le32 (leBytes32 v ++ rest) 0 = v := by
  show (v.extractLsb' 24 8 ++ v.extractLsb' 16 8 ++ v.extractLsb' 8 8 ++ v.extractLsb' 0 8 : Word32) = v
  apply BitVec.eq_of_getLsbD_eq
  intro i hi
  rw [getLsbD_word32]
  simp only [BitVec.getLsbD_extractLsb']
  grind

/-- The little-endian number of four bytes is written as those bytes. -/
theorem leBytes32_word32 (b0 b1 b2 b3 : Byte) : leBytes32 (b3 ++ b2 ++ b1 ++ b0 : Word32) = [b0, b1, b2, b3] := by
  unfold leBytes32 byteOf
  congr 1
  · apply BitVec.eq_of_getLsbD_eq; intro i hi
    rw [BitVec.getLsbD_extractLsb', getLsbD_word32]; grind
  · congr 1
    · apply BitVec.eq_of_getLsbD_eq; intro i hi
      rw [BitVec.getLsbD_extractLsb', getLsbD_word32]; grind
    · congr 1
      · apply BitVec.eq_of_getLsbD_eq; intro i hi
        rw [BitVec.getLsbD_extractLsb', getLsbD_word32]; grind
      · congr 1; apply BitVec.eq_of_getLsbD_eq; intro i hi
        rw [BitVec.getLsbD_extractLsb', getLsbD_word32]; grind

/-- LE16 is MemRead of two bytes (00_scope.md R12). -/
theorem toNat_le16 (bs : List Byte) (o : Nat) : (le16 bs o).toNat = memRead bs o 2 := by
  show ((byteAt bs (o + 1) ++ byteAt bs o : BitVec (8 + 8))).toNat = _
  rw [BitVec.toNat_append]
  simp only [memRead, Nat.mul_zero, Nat.add_zero]
  rw [← Nat.shiftLeft_add_eq_or_of_lt (byteAt bs o).isLt, Nat.shiftLeft_eq]
  omega

/-- LE32 is MemRead of four bytes (00_scope.md R12). -/
theorem toNat_le32 (bs : List Byte) (o : Nat) : (le32 bs o).toNat = memRead bs o 4 := by
  show ((byteAt bs (o + 3) ++ byteAt bs (o + 2) ++ byteAt bs (o + 1) ++ byteAt bs o : BitVec (8 + 8 + 8 + 8))).toNat = _
  rw [BitVec.toNat_append, BitVec.toNat_append, BitVec.toNat_append]
  simp only [memRead, Nat.mul_zero, Nat.add_zero, Nat.add_assoc, Nat.reduceAdd]
  rw [← Nat.shiftLeft_add_eq_or_of_lt (byteAt bs o).isLt, ← Nat.shiftLeft_add_eq_or_of_lt (byteAt bs (o + 1)).isLt,
    ← Nat.shiftLeft_add_eq_or_of_lt (byteAt bs (o + 2)).isLt]
  simp only [Nat.shiftLeft_eq]
  omega

end Sys2Proof
end

