-- ==== Sys2Proof/Laws/State.lean ====
section
/-!
SUPPORT. One lemma per field per update of the machine and of the context, so that no later proof unfolds a record update.
-/

namespace Sys2Proof.Machine

/-! ### Updates of the machine -/

@[simp] theorem State.withCtx_params (s : State) (c : Context) : (s.withCtx c).params = s.params := rfl
@[simp] theorem State.withCtx_ctx (s : State) (c : Context) : (s.withCtx c).ctx = c := rfl
@[simp] theorem State.withCtx_pending (s : State) (c : Context) : (s.withCtx c).pending = s.pending := rfl
@[simp] theorem State.withCtx_result (s : State) (c : Context) : (s.withCtx c).result = s.result := rfl
@[simp] theorem State.return_params (s : State) (r : Result) : (s.return r).params = s.params := rfl
@[simp] theorem State.return_ctx (s : State) (r : Result) : (s.return r).ctx = s.ctx := rfl
@[simp] theorem State.return_pending (s : State) (r : Result) : (s.return r).pending = s.pending := rfl
@[simp] theorem State.return_result (s : State) (r : Result) : (s.return r).result = some r := rfl
@[simp] theorem State.refuse_params (s : State) (why : RefuseReason) : (s.refuse why).params = s.params := rfl
@[simp] theorem State.refuse_ctx (s : State) (why : RefuseReason) : (s.refuse why).ctx = { s.ctx with refused := some why } := rfl
@[simp] theorem State.refuse_pending (s : State) (why : RefuseReason) : (s.refuse why).pending = s.pending := rfl
@[simp] theorem State.refuse_result (s : State) (why : RefuseReason) : (s.refuse why).result = some (.refusedFor why) := rfl
@[simp] theorem State.raiseFault_params (s : State) (why : FaultReason) : (s.raiseFault why).params = s.params := rfl
@[simp] theorem State.raiseFault_ctx (s : State) (why : FaultReason) : (s.raiseFault why).ctx = { s.ctx with fault := some why } := rfl
@[simp] theorem State.raiseFault_pending (s : State) (why : FaultReason) : (s.raiseFault why).pending = s.pending := rfl
@[simp] theorem State.raiseFault_result (s : State) (why : FaultReason) : (s.raiseFault why).result = some (.faulted why) := rfl
@[simp] theorem State.withCtx_withCtx (s : State) (c d : Context) : (s.withCtx c).withCtx d = s.withCtx d := rfl
@[simp] theorem State.withCtx_self (s : State) : s.withCtx s.ctx = s := rfl

/-! ### Updates of the context -/

@[simp] theorem Context.putItem_items (c : Context) (k : Nat) (it : Item) : (c.putItem k it).items = cellPut k it c.items := rfl
@[simp] theorem Context.putItem_count (c : Context) (k : Nat) (it : Item) : (c.putItem k it).count = c.count := rfl
@[simp] theorem Context.putItem_cursor (c : Context) (k : Nat) (it : Item) : (c.putItem k it).cursor = c.cursor := rfl
@[simp] theorem Context.putItem_tx (c : Context) (k : Nat) (it : Item) : (c.putItem k it).tx = c.tx := rfl
@[simp] theorem Context.putItem_rx (c : Context) (k : Nat) (it : Item) : (c.putItem k it).rx = c.rx := rfl
@[simp] theorem Context.putItem_crcFailCount (c : Context) (k : Nat) (it : Item) : (c.putItem k it).crcFailCount = c.crcFailCount := rfl
@[simp] theorem Context.putItem_transport (c : Context) (k : Nat) (it : Item) : (c.putItem k it).transport = c.transport := rfl
@[simp] theorem Context.putItem_events (c : Context) (k : Nat) (it : Item) : (c.putItem k it).events = c.events := rfl
@[simp] theorem Context.putItem_fault (c : Context) (k : Nat) (it : Item) : (c.putItem k it).fault = c.fault := rfl
@[simp] theorem Context.putItem_refused (c : Context) (k : Nat) (it : Item) : (c.putItem k it).refused = c.refused := rfl
@[simp] theorem Context.moveCursor_items (c : Context) (k : Nat) : (c.moveCursor k).items = c.items := rfl
@[simp] theorem Context.moveCursor_count (c : Context) (k : Nat) : (c.moveCursor k).count = c.count := rfl
@[simp] theorem Context.moveCursor_cursor (c : Context) (k : Nat) : (c.moveCursor k).cursor = k := rfl
@[simp] theorem Context.moveCursor_tx (c : Context) (k : Nat) : (c.moveCursor k).tx = c.tx := rfl
@[simp] theorem Context.moveCursor_rx (c : Context) (k : Nat) : (c.moveCursor k).rx = c.rx := rfl
@[simp] theorem Context.moveCursor_crcFailCount (c : Context) (k : Nat) : (c.moveCursor k).crcFailCount = c.crcFailCount := rfl
@[simp] theorem Context.moveCursor_transport (c : Context) (k : Nat) : (c.moveCursor k).transport = c.transport := rfl
@[simp] theorem Context.moveCursor_events (c : Context) (k : Nat) : (c.moveCursor k).events = c.events := rfl
@[simp] theorem Context.moveCursor_fault (c : Context) (k : Nat) : (c.moveCursor k).fault = c.fault := rfl
@[simp] theorem Context.moveCursor_refused (c : Context) (k : Nat) : (c.moveCursor k).refused = c.refused := rfl
@[simp] theorem Context.putTx_items (c : Context) (o : Nat) (b : Byte) : (c.putTx o b).items = c.items := rfl
@[simp] theorem Context.putTx_count (c : Context) (o : Nat) (b : Byte) : (c.putTx o b).count = c.count := rfl
@[simp] theorem Context.putTx_cursor (c : Context) (o : Nat) (b : Byte) : (c.putTx o b).cursor = c.cursor := rfl
@[simp] theorem Context.putTx_tx (c : Context) (o : Nat) (b : Byte) : (c.putTx o b).tx = c.tx.write o b := rfl
@[simp] theorem Context.putTx_rx (c : Context) (o : Nat) (b : Byte) : (c.putTx o b).rx = c.rx := rfl
@[simp] theorem Context.putTx_crcFailCount (c : Context) (o : Nat) (b : Byte) : (c.putTx o b).crcFailCount = c.crcFailCount := rfl
@[simp] theorem Context.putTx_transport (c : Context) (o : Nat) (b : Byte) : (c.putTx o b).transport = c.transport := rfl
@[simp] theorem Context.putTx_events (c : Context) (o : Nat) (b : Byte) : (c.putTx o b).events = c.events := rfl
@[simp] theorem Context.putTx_fault (c : Context) (o : Nat) (b : Byte) : (c.putTx o b).fault = c.fault := rfl
@[simp] theorem Context.putTx_refused (c : Context) (o : Nat) (b : Byte) : (c.putTx o b).refused = c.refused := rfl
@[simp] theorem Context.append_items (c : Context) (e : Event) : (c.append e).items = c.items := rfl
@[simp] theorem Context.append_count (c : Context) (e : Event) : (c.append e).count = c.count := rfl
@[simp] theorem Context.append_cursor (c : Context) (e : Event) : (c.append e).cursor = c.cursor := rfl
@[simp] theorem Context.append_tx (c : Context) (e : Event) : (c.append e).tx = c.tx := rfl
@[simp] theorem Context.append_rx (c : Context) (e : Event) : (c.append e).rx = c.rx := rfl
@[simp] theorem Context.append_crcFailCount (c : Context) (e : Event) : (c.append e).crcFailCount = c.crcFailCount := rfl
@[simp] theorem Context.append_transport (c : Context) (e : Event) : (c.append e).transport = c.transport := rfl
@[simp] theorem Context.append_events (c : Context) (e : Event) : (c.append e).events = c.events ++ [e] := rfl
@[simp] theorem Context.append_fault (c : Context) (e : Event) : (c.append e).fault = c.fault := rfl
@[simp] theorem Context.append_refused (c : Context) (e : Event) : (c.append e).refused = c.refused := rfl
@[simp] theorem Context.emit_items (c : Context) (d : Diag) : (c.emit d).items = c.items := rfl
@[simp] theorem Context.emit_count (c : Context) (d : Diag) : (c.emit d).count = c.count := rfl
@[simp] theorem Context.emit_cursor (c : Context) (d : Diag) : (c.emit d).cursor = c.cursor := rfl
@[simp] theorem Context.emit_tx (c : Context) (d : Diag) : (c.emit d).tx = c.tx := rfl
@[simp] theorem Context.emit_rx (c : Context) (d : Diag) : (c.emit d).rx = c.rx := rfl
@[simp] theorem Context.emit_crcFailCount (c : Context) (d : Diag) : (c.emit d).crcFailCount = c.crcFailCount := rfl
@[simp] theorem Context.emit_transport (c : Context) (d : Diag) : (c.emit d).transport = c.transport := rfl
@[simp] theorem Context.emit_events (c : Context) (d : Diag) : (c.emit d).events = c.events ++ [.diag d] := rfl
@[simp] theorem Context.emit_fault (c : Context) (d : Diag) : (c.emit d).fault = c.fault := rfl
@[simp] theorem Context.emit_refused (c : Context) (d : Diag) : (c.emit d).refused = c.refused := rfl
@[simp] theorem Context.emitIf_items (c : Context) (b : Bool) (d : Diag) : (c.emitIf b d).items = c.items := by cases b <;> rfl
@[simp] theorem Context.emitIf_count (c : Context) (b : Bool) (d : Diag) : (c.emitIf b d).count = c.count := by cases b <;> rfl
@[simp] theorem Context.emitIf_cursor (c : Context) (b : Bool) (d : Diag) : (c.emitIf b d).cursor = c.cursor := by cases b <;> rfl
@[simp] theorem Context.emitIf_tx (c : Context) (b : Bool) (d : Diag) : (c.emitIf b d).tx = c.tx := by cases b <;> rfl
@[simp] theorem Context.emitIf_rx (c : Context) (b : Bool) (d : Diag) : (c.emitIf b d).rx = c.rx := by cases b <;> rfl
@[simp] theorem Context.emitIf_crcFailCount (c : Context) (b : Bool) (d : Diag) : (c.emitIf b d).crcFailCount = c.crcFailCount := by cases b <;> rfl
@[simp] theorem Context.emitIf_transport (c : Context) (b : Bool) (d : Diag) : (c.emitIf b d).transport = c.transport := by cases b <;> rfl
@[simp] theorem Context.emitIf_events (c : Context) (b : Bool) (d : Diag) : (c.emitIf b d).events = if b then c.events ++ [.diag d] else c.events := by cases b <;> rfl
@[simp] theorem Context.emitIf_fault (c : Context) (b : Bool) (d : Diag) : (c.emitIf b d).fault = c.fault := by cases b <;> rfl
@[simp] theorem Context.emitIf_refused (c : Context) (b : Bool) (d : Diag) : (c.emitIf b d).refused = c.refused := by cases b <;> rfl

/-! ### Derived reads after an update -/

@[simp] theorem Context.moveCursor_item? (c : Context) (k j : Nat) : (c.moveCursor k).item? j = c.item? j := rfl
@[simp] theorem Context.putTx_item? (c : Context) (o : Nat) (b : Byte) (j : Nat) :
    (c.putTx o b).item? j = c.item? j := rfl
@[simp] theorem Context.append_item? (c : Context) (e : Event) (j : Nat) : (c.append e).item? j = c.item? j := rfl
@[simp] theorem Context.emit_item? (c : Context) (d : Diag) (j : Nat) : (c.emit d).item? j = c.item? j := rfl
@[simp] theorem Context.emitIf_item? (c : Context) (b : Bool) (d : Diag) (j : Nat) :
    (c.emitIf b d).item? j = c.item? j := by cases b <;> rfl
@[simp] theorem Context.moveCursor_txByte (c : Context) (k o : Nat) : (c.moveCursor k).txByte o = c.txByte o := rfl
@[simp] theorem Context.putItem_txByte (c : Context) (k : Nat) (it : Item) (o : Nat) :
    (c.putItem k it).txByte o = c.txByte o := rfl
@[simp] theorem Context.append_txByte (c : Context) (e : Event) (o : Nat) : (c.append e).txByte o = c.txByte o := rfl
@[simp] theorem Context.emitIf_txByte (c : Context) (b : Bool) (d : Diag) (o : Nat) :
    (c.emitIf b d).txByte o = c.txByte o := by cases b <;> rfl

end Sys2Proof.Machine
end

