-- ==== Sys2Proof/Laws/Memory.lean ====
section
/-!
SUPPORT. The laws of the key-sorted lists, of the frame buffers (a read after a write; every operation keeps the canonical
form; a buffer holds a frame and gives it back) and of the item table.
-/

namespace Sys2Proof.Machine

section Cells

variable {α : Type}

theorem cellGet_put (k : Nat) (v : α) (m : List (Nat × α)) (j : Nat) :
    cellGet j (cellPut k v m) = if j = k then some v else cellGet j m := by
  induction m with
  | nil => simp [cellPut, cellGet, eq_comm]
  | cons c rest ih =>
    obtain ⟨i, w⟩ := c
    simp only [cellPut]
    split
    · simp [cellGet, eq_comm]
    · split
      · subst i; by_cases h : j = k
        · simp [cellGet, h]
        · simp [cellGet, h, Ne.symm h]
      · simp only [cellGet, ih]
        by_cases h : j = k
        · subst j; simp [show i ≠ k by omega]
        · simp [h]

theorem cellGet_eq_none_of_lt {k : Nat} {m : List (Nat × α)} (h : ∀ c ∈ m, k < c.1) : cellGet k m = none := by
  induction m with
  | nil => rfl
  | cons c rest ih =>
    have h1 := h c (by simp)
    simp only [cellGet, show c.1 ≠ k by omega, if_false]
    exact ih fun d hd => h d (by simp [hd])

theorem rising_nil : Rising ([] : List (Nat × α)) := List.Pairwise.nil

theorem Rising.tail {c : Nat × α} {m : List (Nat × α)} (h : Rising (c :: m)) : Rising m :=
  (List.pairwise_cons.mp h).2

theorem Rising.head_lt {c : Nat × α} {m : List (Nat × α)} (h : Rising (c :: m)) : ∀ d ∈ m, c.1 < d.1 :=
  fun d hd => (List.pairwise_cons.mp h).1 d.1 (List.mem_map_of_mem hd)

theorem Rising.cons {c : Nat × α} {m : List (Nat × α)} (h : Rising m) (hlt : ∀ d ∈ m, c.1 < d.1) : Rising (c :: m) :=
  List.pairwise_cons.mpr ⟨fun a ha => by obtain ⟨d, hd, rfl⟩ := List.mem_map.mp ha; exact hlt d hd, h⟩

theorem cellGet_drop {m : List (Nat × α)} (h : Rising m) (k j : Nat) :
    cellGet j (cellDrop k m) = if j = k then none else cellGet j m := by
  induction m with
  | nil => simp [cellDrop, cellGet]
  | cons c rest ih =>
    simp only [cellDrop]
    split
    · next hk =>
      subst hk
      by_cases hj : j = c.1
      · subst hj; simp [cellGet_eq_none_of_lt h.head_lt]
      · simp [cellGet, hj, eq_comm]
    · next hk =>
      simp only [cellGet, ih h.tail]
      by_cases hj : j = k
      · subst hj; simp [hk]
      · simp [hj]

theorem mem_cellPut {k : Nat} {v : α} {m : List (Nat × α)} {c : Nat × α} (h : c ∈ cellPut k v m) :
    c = (k, v) ∨ c ∈ m := by
  induction m with
  | nil => simpa [cellPut] using h
  | cons d rest ih =>
    simp only [cellPut] at h
    split at h
    · exact List.mem_cons.mp h
    · split at h
      · rcases List.mem_cons.mp h with h | h <;> simp [h]
      · rcases List.mem_cons.mp h with h | h
        · simp [h]
        · rcases ih h with h | h <;> simp [h]

theorem mem_cellDrop {k : Nat} {m : List (Nat × α)} {c : Nat × α} (h : c ∈ cellDrop k m) : c ∈ m := by
  induction m with
  | nil => exact h
  | cons d rest ih =>
    simp only [cellDrop] at h
    split at h
    · simp [h]
    · rcases List.mem_cons.mp h with h | h
      · simp [h]
      · simp [ih h]

theorem rising_cellPut {m : List (Nat × α)} (h : Rising m) (k : Nat) (v : α) : Rising (cellPut k v m) := by
  induction m with
  | nil => exact rising_nil.cons (by simp)
  | cons c rest ih =>
    simp only [cellPut]
    split
    · next hk =>
      refine h.cons fun d hd => ?_
      rcases List.mem_cons.mp hd with rfl | hd
      · exact hk
      · exact hk.trans (h.head_lt d hd)
    · split
      · next hk => exact h.tail.cons fun d hd => hk ▸ h.head_lt d hd
      · refine (ih h.tail).cons fun d hd => ?_
        rcases mem_cellPut hd with rfl | hd
        · show c.1 < k; omega
        · exact h.head_lt d hd

theorem rising_cellDrop {m : List (Nat × α)} (h : Rising m) (k : Nat) : Rising (cellDrop k m) := by
  induction m with
  | nil => exact rising_nil
  | cons c rest ih =>
    simp only [cellDrop]
    split
    · exact h.tail
    · exact (ih h.tail).cons fun d hd => h.head_lt d (mem_cellDrop hd)

theorem cellGet_mem {k : Nat} {v : α} {m : List (Nat × α)} (h : cellGet k m = some v) : (k, v) ∈ m := by
  induction m with
  | nil => simp [cellGet] at h
  | cons c rest ih =>
    simp only [cellGet] at h
    split at h
    · next hk => cases h; subst hk; simp
    · simp [ih h]

end Cells

/-! ### Frame buffers -/

theorem Memory.read_write {m : Memory} (h : m.wf) (o : Nat) (b : Byte) (a : Nat) :
    (m.write o b).read a = if a = o then b else m.read a := by
  unfold Memory.write Memory.read
  split
  · next hb => subst hb; rw [cellGet_drop h.1]; split <;> rfl
  · rw [cellGet_put]; split <;> rfl

theorem Memory.wf_nil : Memory.wf [] := ⟨rising_nil, by simp⟩

theorem Memory.wf_write {m : Memory} (h : m.wf) {o : Nat} (ho : o < nFrame) (b : Byte) : (m.write o b).wf := by
  unfold Memory.write
  split
  · exact ⟨rising_cellDrop h.1 o, fun c hc => h.2 c (mem_cellDrop hc)⟩
  · next hb =>
    refine ⟨rising_cellPut h.1 o b, fun c hc => ?_⟩
    rcases mem_cellPut hc with rfl | hc
    · exact ⟨ho, hb⟩
    · exact h.2 c hc

theorem Memory.wf_writeBytes {bs : List Byte} : ∀ {m : Memory} {o : Nat}, m.wf → o + bs.length ≤ nFrame →
    (m.writeBytes o bs).wf := by
  induction bs with
  | nil => intro m o h _; exact h
  | cons b bs ih =>
    intro m o h hl
    simp only [List.length_cons] at hl
    exact ih (wf_write h (by omega) b) (by omega)

theorem Memory.read_writeBytes {bs : List Byte} : ∀ {m : Memory} {o : Nat}, m.wf → o + bs.length ≤ nFrame → ∀ a,
    (m.writeBytes o bs).read a = if o ≤ a ∧ a < o + bs.length then byteAt bs (a - o) else m.read a := by
  induction bs with
  | nil => intro m o _ _ a; simp [writeBytes, show ¬ (o ≤ a ∧ a < o) by omega]
  | cons b bs ih =>
    intro m o h hl a
    simp only [List.length_cons] at hl ⊢
    rw [writeBytes, ih (wf_write h (by omega) b) (by omega), read_write h]
    by_cases ha : a = o
    · subst ha; simp [byteAt]
    · by_cases hin : o + 1 ≤ a ∧ a < o + 1 + bs.length
      · obtain ⟨d, rfl⟩ : ∃ d, a = o + 1 + d := ⟨a - (o + 1), by omega⟩
        rw [if_pos hin, if_pos (by omega), show o + 1 + d - (o + 1) = d by omega, show o + 1 + d - o = d + 1 by omega]
        rfl
      · rw [if_neg hin, if_neg ha, if_neg (by omega)]

theorem Memory.wf_ofFrame (f : List Byte) : (Memory.ofFrame f).wf :=
  wf_writeBytes wf_nil (by simp)

theorem Memory.read_ofFrame (f : List Byte) {o : Nat} (ho : o < nFrame) : (Memory.ofFrame f).read o = byteAt f o := by
  unfold Memory.ofFrame
  rw [read_writeBytes wf_nil (by simp)]
  by_cases h : o < f.length
  · simp [byteAt, ho, h, List.getD_eq_getElem?_getD]
  · simp [byteAt, h, Memory.read, cellGet, List.getD_eq_getElem?_getD]

@[simp] theorem Memory.length_readBytes (m : Memory) (o n : Nat) : (m.readBytes o n).length = n := by simp [readBytes]

theorem Memory.byteAt_readBytes (m : Memory) (o : Nat) {n k : Nat} (h : k < n) :
    byteAt (m.readBytes o n) k = m.read (o + k) := by
  simp [byteAt, readBytes, List.getD_eq_getElem?_getD, h]

@[simp] theorem Memory.length_frame (m : Memory) : m.frame.length = nFrame := Memory.length_readBytes m 0 nFrame

theorem Memory.take_frame (m : Memory) {n : Nat} (h : n ≤ nFrame) : m.frame.take n = m.readBytes 0 n := by
  simp [frame, readBytes, ← List.map_take, List.take_range, h]

/-! ### The item table -/

@[simp] theorem Context.item?_putItem (c : Context) (k : Nat) (it : Item) (j : Nat) :
    (c.putItem k it).item? j = if j = k then some it else c.item? j := cellGet_put k it c.items j

theorem Context.txByte_putTx {c : Context} (h : c.tx.wf) (o : Nat) (b : Byte) (a : Nat) :
    (c.putTx o b).txByte a = if a = o then b else c.txByte a := Memory.read_write h o b a

/-! ### The canonical form after every operation that touches storage -/

theorem Context.reset_stored : Context.reset.Stored := ⟨Memory.wf_nil, by simp [Context.reset], rising_nil⟩

theorem wf_putTx {c : Context} (h : c.tx.wf) {o : Nat} (ho : o < nFrame) (b : Byte) : (c.putTx o b).tx.wf :=
  Memory.wf_write h ho b

theorem rising_putItem {c : Context} (h : Rising c.items) (k : Nat) (it : Item) : Rising (c.putItem k it).items :=
  rising_cellPut h k it

end Sys2Proof.Machine
end

