-- ==== Sys2Proof/Laws/Ops.lean ====
section
/-!
SUPPORT. What each shared operation can do, said once: how an operation ends, the cases of SCHED, MATCH and the exchange,
and the operand checks. Later proofs cite these lemmas instead of unfolding the operations.
-/

namespace Sys2Proof.Machine

/-! ### Ways an operation ends -/

theorem unlessMarked_of_unmarked {s : State} (h : s.ctx.marked = false) (k : State → Out) : s.unlessMarked k = k s := by
  simp [State.unlessMarked, h]

theorem unlessMarked_of_marked {s : State} (h : s.ctx.marked = true) (k : State → Out) :
    s.unlessMarked k = .next (s.return (.refusedFor .afterFaultOrRefusal)) := by
  simp [State.unlessMarked, h]

theorem unlessMarked_next {s t : State} {k : State → Out} (h : s.unlessMarked k = .next t) :
    (s.ctx.marked = true ∧ t = s.return (.refusedFor .afterFaultOrRefusal)) ∨ (s.ctx.marked = false ∧ k s = .next t) := by
  unfold State.unlessMarked at h
  split at h
  · next hm => cases h; exact .inl ⟨hm, rfl⟩
  · next hm => exact .inr ⟨by simpa using hm, h⟩

theorem answer_next {s t : State} {r : Result} (h : s.answer r = .next t) : ∃ r', t = s.return r' := by
  rcases unlessMarked_next h with ⟨_, rfl⟩ | ⟨_, h⟩
  · exact ⟨_, rfl⟩
  · cases h; exact ⟨_, rfl⟩

theorem andThen_next {s t : State} {r : Except EngineStop Context} {k : State → Out} (h : s.andThen r k = .next t) :
    (∃ c, r = .ok c ∧ k (s.withCtx c) = .next t) ∨
    (r = .error .cursorOutOfRange ∧ t = s.raiseFault .cursorOutOfRange) := by
  unfold State.andThen at h
  split at h
  · exact .inl ⟨_, rfl, h⟩
  · cases h; exact .inr ⟨rfl, rfl⟩
  · cases h

theorem checked_next {α : Type} {s t : State} {r : Except RefuseReason α} {k : α → State} (h : s.checked r k = .next t) :
    (∃ a, r = .ok a ∧ t = k a) ∨ (∃ why, r = .error why ∧ t = s.refuse why) := by
  unfold State.checked at h
  split at h
  · cases h; exact .inl ⟨_, rfl, rfl⟩
  · cases h; exact .inr ⟨_, rfl, rfl⟩

theorem configured_iff (c : Context) (n : Nat) : c.configured n = true ↔ ∀ k, k < n → (c.item? k).isSome := by
  simp [Context.configured]

/-! ### SCHED -/

theorem scanSlots_ok {c : Context} {l : List Nat} {q : Option (Nat × Item)} (h : scanSlots c l = .ok q) :
    (q = none ∧ ∀ k ∈ l, ∃ it, c.item? k = some it ∧ it.eligible = false) ∨
    ∃ j it, q = some (j, it) ∧ j ∈ l ∧ c.item? j = some it ∧ it.eligible = true := by
  induction l with
  | nil => cases h; exact .inl ⟨rfl, by simp⟩
  | cons j js ih =>
    unfold scanSlots at h
    split at h
    · cases h
    next it hit =>
    split at h
    · next he => cases h; exact .inr ⟨j, it, rfl, by simp, hit, he⟩
    next he =>
    rcases ih h with ⟨rfl, hall⟩ | ⟨k, it', rfl, hk, hit', he'⟩
    · exact .inl ⟨rfl, by simpa using ⟨⟨it, hit, by simpa using he⟩, hall⟩⟩
    · exact .inr ⟨k, it', rfl, by simp [hk], hit', he'⟩

/-- The scan stops only where a slot it comes to holds no value (70_reset_and_hazards.md R200). -/
theorem scanSlots_error {c : Context} {l : List Nat} {stop : EngineStop} (h : scanSlots c l = .error stop) :
    stop = .emptySlotRead ∧ ∃ k ∈ l, c.item? k = none := by
  induction l with
  | nil => cases h
  | cons j js ih =>
    unfold scanSlots at h
    split at h
    · next hj => cases h; exact ⟨rfl, j, by simp, hj⟩
    next it hit =>
    split at h
    · cases h
    obtain ⟨hs, k, hk, hn⟩ := ih h
    exact ⟨hs, k, by simp [hk], hn⟩

/-- The scan passes over slots that are not eligible. -/
theorem scanSlots_append {c : Context} {l m : List Nat} (h : ∀ k ∈ l, ∃ it, c.item? k = some it ∧ it.eligible = false) :
    scanSlots c (l ++ m) = scanSlots c m := by
  induction l with
  | nil => rfl
  | cons j js ih =>
    obtain ⟨it, hit, he⟩ := h j (by simp)
    rw [← ih fun k hk => h k (by simp [hk])]
    simp [scanSlots, hit, he]

/-- The slots a scan comes to are those in use. -/
theorem mem_scanOrder {n i k : Nat} : k ∈ scanOrder n i ↔ ∃ d, d < n ∧ k = (i + d) % n := by
  simp [scanOrder, eq_comm]

theorem scan_eq_some {c : Context} {j : Nat} {it : Item} (h : scan c = .ok (some (j, it))) :
    (∃ d, d < c.count ∧ j = (c.cursor + d) % c.count) ∧ c.item? j = some it ∧ it.eligible = true := by
  rcases scanSlots_ok h with ⟨hq, _⟩ | ⟨k, it', hq, hk, hit, he⟩
  · cases hq
  · cases hq; exact ⟨mem_scanOrder.mp hk, hit, he⟩

theorem scan_lt {c : Context} {j : Nat} {it : Item} (h : scan c = .ok (some (j, it))) : j < c.count := by
  obtain ⟨⟨d, hd, rfl⟩, _⟩ := scan_eq_some h
  exact Nat.mod_lt _ (by omega)

/-- Everything SCHED can do when it does not stop. -/
theorem sched_ok {p : Params} {c c' : Context} (h : sched p c = .ok c') :
    (c.count = 0 ∧ c' = c) ∨
    (c.cursor < c.count ∧ ∃ it, c.item? c.cursor = some it ∧
      ((it.inFlight = true ∧ c' = busyStep p c it) ∨
       (it.inFlight = false ∧
         ((∃ j it', scan c = .ok (some (j, it')) ∧ c' = dispatch c j it') ∨ (scan c = .ok none ∧ c' = c))))) := by
  unfold sched at h
  split at h
  · next h0 => cases h; exact .inl ⟨h0, rfl⟩
  split at h
  · cases h
  next hlt =>
  split at h
  · cases h
  next it hit =>
  refine .inr ⟨by omega, it, hit, ?_⟩
  split at h
  · next hb => cases h; exact .inl ⟨hb, rfl⟩
  next hb =>
  refine .inr ⟨by simpa using hb, ?_⟩
  split at h
  · cases h
  · next hs => cases h; exact .inr ⟨hs, rfl⟩
  · next j it' hs => cases h; exact .inl ⟨j, it', hs, rfl⟩

/-- SCHED faults exactly on a cursor outside a table that is not empty (42_scheduler.md R120). -/
theorem sched_fault_iff {p : Params} {c : Context} :
    sched p c = .error .cursorOutOfRange ↔ c.count ≠ 0 ∧ c.count ≤ c.cursor := by
  constructor
  · intro h
    unfold sched at h
    split at h
    · cases h
    next h0 =>
    split at h
    · next hc => exact ⟨h0, hc⟩
    split at h
    · cases h
    split at h
    · cases h
    split at h
    · next hs => cases h; cases (scanSlots_error hs).1
    · cases h
    · cases h
  · rintro ⟨h0, hc⟩
    simp [sched, h0, hc]

/-- SCHED stops only where the cursor's slot or one its scan comes to holds no value; both are slots in use. -/
theorem sched_empty_read {p : Params} {c : Context} (h : sched p c = .error .emptySlotRead) :
    ∃ k, k < c.count ∧ c.item? k = none := by
  unfold sched at h
  split at h
  · cases h
  split at h
  · cases h
  next hlt =>
  split at h
  · next hn => exact ⟨c.cursor, by omega, hn⟩
  split at h
  · cases h
  split at h
  · next hs =>
    obtain ⟨_, k, hk, hn⟩ := scanSlots_error hs
    obtain ⟨d, hd, rfl⟩ := mem_scanOrder.mp hk
    exact ⟨_, Nat.mod_lt _ (by omega), hn⟩
  · cases h
  · cases h

/-! ### MATCH -/

/-- Everything MATCH can do when it does not stop. -/
theorem matchRec_ok {c c' : Context} {r : SdcRec} (h : matchRec c r = .ok c') :
    ((c.count = 0 ∨ c.count ≤ c.cursor) ∧ c' = c) ∨
    (c.cursor < c.count ∧ ∃ it, c.item? c.cursor = some it ∧
      (((it.mismatches r = true ∨ it.echoDiffers r = true) ∧ c' = c) ∨
       (it.mismatches r = false ∧ it.echoDiffers r = false ∧
        c' = accept (c.emitIf (it.errorIsNew r) (.sdcError c.cursor it.address r.value)) it r))) := by
  unfold matchRec at h
  split at h
  · next h0 => cases h; exact .inl ⟨h0, rfl⟩
  next hlt =>
  split at h
  · cases h
  next it hit =>
  cases h
  refine .inr ⟨by omega, it, hit, ?_⟩
  unfold matchItem
  split
  · next h1 => exact .inl ⟨.inl h1, rfl⟩
  next h1 =>
  split
  · next h2 => exact .inl ⟨.inr h2, rfl⟩
  next h2 => exact .inr ⟨by simpa using h1, by simpa using h2, rfl⟩

theorem matchRec_ne_cursorOutOfRange (c : Context) (r : SdcRec) : matchRec c r ≠ .error .cursorOutOfRange := by
  unfold matchRec
  split
  · simp
  · split <;> simp

/-! ### The exchange -/

/-- Everything the exchange of a CYCLE can do (44_orchestrator.md R143 to R145). -/
theorem exchange_next {a : Answer} {s t : State} (h : exchange a s = .next t) :
    (a = .fail ∧ t = (s.withCtx (s.ctx.append (.exchange s.ctx.tx.frame a))).return .xferFail) ∨
    (∃ f, a = .bytes f ∧ validate f = false ∧
      t = (s.withCtx (crcFailure s.params (s.ctx.append (.exchange s.ctx.tx.frame a)))).return .crcFail) ∨
    (∃ f c, a = .bytes f ∧ validate f = true ∧
      matchFrame (commit (s.ctx.append (.exchange s.ctx.tx.frame a)) f) f = .ok c ∧ t = (s.withCtx c).return .ok) := by
  unfold exchange at h
  cases a with
  | fail => cases h; exact .inl ⟨rfl, rfl⟩
  | bytes f =>
    simp only at h
    split at h
    · next hv =>
      rcases andThen_next h with ⟨c, hc, h⟩ | ⟨hc, _⟩
      · cases h; exact .inr (.inr ⟨f, c, rfl, hv, hc, rfl⟩)
      · exact absurd hc (matchRec_ne_cursorOutOfRange _ _)
    · next hv => cases h; exact .inr (.inl ⟨f, rfl, by simpa using hv, rfl⟩)

/-- Everything a CYCLE can do (44_orchestrator.md R140; 60_exceptions.md R175). -/
theorem execCycle_next {a : Answer} {s t : State} (h : execCycle a s = .next t) :
    (s.ctx.marked = true ∧ t = s.return (.refusedFor .afterFaultOrRefusal)) ∨
    (s.ctx.marked = false ∧ s.ctx.transport ≠ .opened ∧ t = s.return .notReady) ∨
    (s.ctx.marked = false ∧ s.ctx.transport = .opened ∧
      ((sched s.params s.ctx = .error .cursorOutOfRange ∧ t = s.raiseFault .cursorOutOfRange) ∨
       (∃ c, sched s.params s.ctx = .ok c ∧ exchange a (s.withCtx (stamp c)) = .next t))) := by
  rcases unlessMarked_next h with h | ⟨hm, h⟩
  · exact .inl h
  right
  split at h
  · next ht => cases h; exact .inl ⟨hm, ht, rfl⟩
  next ht =>
  refine .inr ⟨hm, by simpa using ht, ?_⟩
  rcases andThen_next h with ⟨c, hc, h⟩ | ⟨hc, rfl⟩
  · exact .inr ⟨c, hc, h⟩
  · exact .inl ⟨hc, rfl⟩

/-! ### The checksum -/

theorem crcFrom_append (c : Word16) (s t : List Byte) : crcFrom c (s ++ t) = crcFrom (crcFrom c s) t := by
  induction s generalizing c with
  | nil => rfl
  | cons b s ih => exact ih (crcByte c b)

@[simp] theorem length_leBytes16 (v : Word16) : (leBytes16 v).length = 2 := rfl
@[simp] theorem length_leBytes32 (v : Word32) : (leBytes32 v).length = 4 := rfl
@[simp] theorem length_encodeSdc (r : SdcRec) : (encodeSdc r).length = 4 := rfl
@[simp] theorem length_outBody (o : OutRec) : (outBody o).length = nCovered := rfl
@[simp] theorem length_inBody (r : InRec) : (inBody r).length = nCovered := rfl
@[simp] theorem length_outEnc (o : OutRec) : (outEnc o).length = nFrame := rfl
@[simp] theorem length_inEnc (r : InRec) : (inEnc r).length = nFrame := rfl

end Sys2Proof.Machine
end

