-- ==== Sys2Proof/Laws/Checksum.lean ====
section
/-!
SUPPORT. The algebra of CRC16's register: the shift is linear over exclusive or and loses nothing, so equal registers after
equal bytes were equal before, and a register with its low byte clear only moves (40_checksum.md R100).
-/

namespace Sys2Proof.Machine

theorem crcShift_xor (a b : Word16) : crcShift (a ^^^ b) = crcShift a ^^^ crcShift b := by
  unfold crcShift
  simp only [BitVec.getLsbD_xor]
  cases a.getLsbD 0 <;> cases b.getLsbD 0 <;> simp [BitVec.ushiftRight_xor_distrib] <;>
    (apply BitVec.eq_of_getLsbD_eq; intro i hi; simp; try grind)

theorem crcShifts_xor (n : Nat) (a b : Word16) : crcShifts n (a ^^^ b) = crcShifts n a ^^^ crcShifts n b := by
  induction n generalizing a b with
  | zero => rfl
  | succ n ih => simp only [crcShifts, crcShift_xor, ih]

theorem eq_zero_of_crcShift {a : Word16} (h : crcShift a = 0) : a = 0 := by
  unfold crcShift at h
  by_cases h0 : a.getLsbD 0
  · rw [if_pos h0] at h
    have := congrArg (·.getLsbD 15) h
    simp at this
  · rw [if_neg h0] at h
    apply BitVec.eq_of_getLsbD_eq; intro i hi
    cases i with
    | zero => simpa using h0
    | succ i =>
      have := congrArg (·.getLsbD i) h
      simpa [Nat.add_comm] using this

theorem eq_zero_of_crcShifts {n : Nat} {a : Word16} (h : crcShifts n a = 0) : a = 0 := by
  induction n generalizing a with
  | zero => exact h
  | succ n ih => exact eq_zero_of_crcShift (ih h)

theorem crcShifts_injective {n : Nat} {a b : Word16} (h : crcShifts n a = crcShifts n b) : a = b :=
  BitVec.xor_eq_zero_iff.mp (eq_zero_of_crcShifts (n := n) (by rw [crcShifts_xor, h, BitVec.xor_self]; rfl))

theorem crcByte_injective {a b : Word16} {x : Byte} (h : crcByte a x = crcByte b x) : a = b := by
  have := crcShifts_injective h
  exact (BitVec.xor_right_inj (x.setWidth 16)).mp (by simpa [BitVec.xor_comm] using this)

theorem crcFrom_injective {s : List Byte} {a b : Word16} (h : crcFrom a s = crcFrom b s) : a = b := by
  induction s generalizing a b with
  | nil => exact h
  | cons x s ih => exact crcByte_injective (ih h)

/-- A register whose low `n` bits are clear is only moved by `n` shifts. -/
theorem crcShifts_of_low_clear {n : Nat} {a : Word16} (h : ∀ i, i < n → a.getLsbD i = false) : crcShifts n a = a >>> n := by
  induction n generalizing a with
  | zero => simp [crcShifts]
  | succ n ih =>
    have h0 : crcShift a = a >>> 1 := by rw [crcShift, h 0 (by omega)]; rfl
    rw [crcShifts, h0, ih fun i hi => by simp [Nat.add_comm 1 i, h (i + 1) (by omega)]]
    rw [← BitVec.shiftRight_add, Nat.add_comm]

end Sys2Proof.Machine
end

