-- ==== Sys2Proof/Laws/Codec.lean ====
section
/-!
SUPPORT. The encoders' bytes written out, one list cell a byte (30_encoding.md R72, R73), and a frame as its 26 bytes.
-/

namespace Sys2Proof.Machine

/-- The high word W1 of a sub-frame (30_encoding.md R71). -/
def sdcWord1 (r : SdcRec) : Word16 := r.reserved ++ BitVec.ofBool r.error ++ BitVec.ofBool r.write ++ r.address

theorem encodeSdc_bytes (r : SdcRec) :
    encodeSdc r = [byteOf r.value 0, byteOf r.value 1, byteOf (sdcWord1 r) 0, byteOf (sdcWord1 r) 1] := rfl

theorem outEnc_bytes (o : OutRec) : outEnc o =
    byteOf o.sdc.value 0 :: byteOf o.sdc.value 1 :: byteOf (sdcWord1 o.sdc) 0 :: byteOf (sdcWord1 o.sdc) 1 ::
      o.control :: o.ledMask :: o.ledValue :: o.dout ::
      byteOf o.pwmDiv1 0 :: byteOf o.pwmDiv1 1 :: byteOf o.pwmDc1 0 :: byteOf o.pwmDc1 1 ::
      byteOf o.pwmDc2 0 :: byteOf o.pwmDc2 1 :: byteOf o.pwmDc3 0 :: byteOf o.pwmDc3 1 ::
      byteOf o.pwmDiv2 0 :: byteOf o.pwmDiv2 1 :: byteOf o.pwmDc4 0 :: byteOf o.pwmDc4 1 ::
      byteOf o.aout1 0 :: byteOf o.aout1 1 :: byteOf o.aout2 0 :: byteOf o.aout2 1 ::
      leBytes16 (crc16 (outBody o)) := rfl

theorem inEnc_bytes (r : InRec) : inEnc r =
    byteOf r.sdc.value 0 :: byteOf r.sdc.value 1 :: byteOf (sdcWord1 r.sdc) 0 :: byteOf (sdcWord1 r.sdc) 1 ::
      r.status :: byteOf r.reserved16 0 :: byteOf r.reserved16 1 :: r.din ::
      byteOf r.cnt1 0 :: byteOf r.cnt1 1 :: byteOf r.cnt1 2 :: byteOf r.cnt1 3 ::
      byteOf r.cnt2 0 :: byteOf r.cnt2 1 :: byteOf r.cnt2 2 :: byteOf r.cnt2 3 ::
      byteOf r.cnt3 0 :: byteOf r.cnt3 1 :: byteOf r.cnt3 2 :: byteOf r.cnt3 3 ::
      byteOf r.ain1 0 :: byteOf r.ain1 1 :: byteOf r.ain2 0 :: byteOf r.ain2 1 ::
      leBytes16 (crc16 (inBody r)) := rfl

theorem take_outEnc (o : OutRec) : (outEnc o).take nCovered = outBody o := rfl

theorem take_inEnc (r : InRec) : (inEnc r).take nCovered = inBody r := rfl

/-- A frame is its 26 bytes. -/
theorem frame_bytes {t : List Byte} (h : t.length = nFrame) :
    ∃ a0 a1 a2 a3 a4 a5 a6 a7 a8 a9 a10 a11 a12 a13 a14 a15 a16 a17 a18 a19 a20 a21 a22 a23 a24 a25,
      t = [a0, a1, a2, a3, a4, a5, a6, a7, a8, a9, a10, a11, a12, a13, a14, a15, a16, a17, a18, a19, a20, a21, a22, a23,
        a24, a25] := by
  match t, h with
  | [a0, a1, a2, a3, a4, a5, a6, a7, a8, a9, a10, a11, a12, a13, a14, a15, a16, a17, a18, a19, a20, a21, a22, a23,
      a24, a25], _ => exact ⟨_, _, _, _, _, _, _, _, _, _, _, _, _, _, _, _, _, _, _, _, _, _, _, _, _, _, rfl⟩

end Sys2Proof.Machine
end

