-- ==== Sys2Proof/Laws/Dispatch.lean ====
section
/-!
SUPPORT. The dispatch read arm by arm: each operation runs its own meaning.
-/

namespace Sys2Proof.Machine

@[simp] theorem exec_sdcRdReq (value : Word16) (address : RegAddr) (reserved : BitVec 2) (s₀ : State) :
    exec (.sdcRdReq value address reserved) s₀ = execSdcRdReq value address reserved s₀ := rfl
@[simp] theorem exec_sdcWrReq (value : Word16) (address : RegAddr) (reserved : BitVec 2) (s₀ : State) :
    exec (.sdcWrReq value address reserved) s₀ = execSdcWrReq value address reserved s₀ := rfl
@[simp] theorem exec_sdcOutErr (value : Word16) (address : RegAddr) (write : Bool) (reserved : BitVec 2) (s₀ : State) :
    exec (.sdcOutErr value address write reserved) s₀ = execSdcOutErr value address write reserved s₀ := rfl
@[simp] theorem exec_sdcRdResp (value : Word16) (address : RegAddr) (reserved : BitVec 2) (s₀ : State) :
    exec (.sdcRdResp value address reserved) s₀ = execSdcRdResp value address reserved s₀ := rfl
@[simp] theorem exec_sdcWrEcho (value : Word16) (address : RegAddr) (reserved : BitVec 2) (s₀ : State) :
    exec (.sdcWrEcho value address reserved) s₀ = execSdcWrEcho value address reserved s₀ := rfl
@[simp] theorem exec_sdcRdErr (value : Word16) (address : RegAddr) (reserved : BitVec 2) (s₀ : State) :
    exec (.sdcRdErr value address reserved) s₀ = execSdcRdErr value address reserved s₀ := rfl
@[simp] theorem exec_sdcWrErr (value : Word16) (address : RegAddr) (reserved : BitVec 2) (s₀ : State) :
    exec (.sdcWrErr value address reserved) s₀ = execSdcWrErr value address reserved s₀ := rfl
@[simp] theorem exec_crc16 (s : List Byte) (s₀ : State) :
    exec (.crc16 s) s₀ = execCrc16 s s₀ := rfl
@[simp] theorem exec_stamp (s₀ : State) :
    exec .stamp s₀ = execStamp s₀ := rfl
@[simp] theorem exec_validate (f : List Byte) (s₀ : State) :
    exec (.validate f) s₀ = execValidate f s₀ := rfl
@[simp] theorem exec_sdcEnc (r : SdcRec) (s₀ : State) :
    exec (.sdcEnc r) s₀ = execSdcEnc r s₀ := rfl
@[simp] theorem exec_sdcDec (b : List Byte) (s₀ : State) :
    exec (.sdcDec b) s₀ = execSdcDec b s₀ := rfl
@[simp] theorem exec_outEnc (o : OutRec) (s₀ : State) :
    exec (.outEnc o) s₀ = execOutEnc o s₀ := rfl
@[simp] theorem exec_outDec (t : List Byte) (s₀ : State) :
    exec (.outDec t) s₀ = execOutDec t s₀ := rfl
@[simp] theorem exec_inEnc (r : InRec) (s₀ : State) :
    exec (.inEnc r) s₀ = execInEnc r s₀ := rfl
@[simp] theorem exec_inDec (f : List Byte) (s₀ : State) :
    exec (.inDec f) s₀ = execInDec f s₀ := rfl
@[simp] theorem exec_sched (s₀ : State) :
    exec .sched s₀ = execSched s₀ := rfl
@[simp] theorem exec_matchSdc (f : List Byte) (s₀ : State) :
    exec (.matchSdc f) s₀ = execMatch f s₀ := rfl
@[simp] theorem exec_cycle (answer : Answer) (s₀ : State) :
    exec (.cycle answer) s₀ = execCycle answer s₀ := rfl
@[simp] theorem exec_hOpen (outcome : SetupOutcome) (s₀ : State) :
    exec (.hOpen outcome) s₀ = execHOpen outcome s₀ := rfl
@[simp] theorem exec_hClose (s₀ : State) :
    exec .hClose s₀ = execHClose s₀ := rfl
@[simp] theorem exec_hSetCount (n : Nat) (s₀ : State) :
    exec (.hSetCount n) s₀ = execHSetCount n s₀ := rfl
@[simp] theorem exec_hConfig (k : Nat) (raw : RawItem) (s₀ : State) :
    exec (.hConfig k raw) s₀ = execHConfig k raw s₀ := rfl
@[simp] theorem exec_hWriteItem (k : Nat) (field : ItemField) (v : Nat) (s₀ : State) :
    exec (.hWriteItem k field v) s₀ = execHWriteItem k field v s₀ := rfl
@[simp] theorem exec_hReadItem (k : Nat) (s₀ : State) :
    exec (.hReadItem k) s₀ = execHReadItem k s₀ := rfl
@[simp] theorem exec_hReadCtx (s₀ : State) :
    exec .hReadCtx s₀ = execHReadCtx s₀ := rfl
@[simp] theorem exec_hWriteTx (o : Nat) (b : Nat) (s₀ : State) :
    exec (.hWriteTx o b) s₀ = execHWriteTx o b s₀ := rfl
@[simp] theorem exec_hReadTx (o : Nat) (s₀ : State) :
    exec (.hReadTx o) s₀ = execHReadTx o s₀ := rfl
@[simp] theorem exec_hReadRx (o : Nat) (s₀ : State) :
    exec (.hReadRx o) s₀ = execHReadRx o s₀ := rfl
@[simp] theorem exec_reset (s₀ : State) :
    exec .reset s₀ = execReset s₀ := rfl

end Sys2Proof.Machine
end

