-- ==== Sys2Proof/Laws/Engine.lean ====
section
/-!
SUPPORT. What each engine sub-step leaves, read by read: STAMP, the busy step, DISPATCH, accept, the CRC failure and the
commit (40_checksum.md R102; 42_scheduler.md R121, R123; 43_matcher.md R133; 44_orchestrator.md R144, R145).
-/

namespace Sys2Proof.Machine

/-! ### STAMP -/

theorem stamp_eq (c : Context) : stamp c =
    (c.putTx 24 (byteOf (crc16 (c.tx.readBytes 0 nCovered)) 0)).putTx 25
      (byteOf (crc16 (c.tx.readBytes 0 nCovered)) 1) := rfl

@[simp] theorem stamp_items (c : Context) : (stamp c).items = c.items := rfl
@[simp] theorem stamp_count (c : Context) : (stamp c).count = c.count := rfl
@[simp] theorem stamp_cursor (c : Context) : (stamp c).cursor = c.cursor := rfl
@[simp] theorem stamp_rx (c : Context) : (stamp c).rx = c.rx := rfl
@[simp] theorem stamp_crcFailCount (c : Context) : (stamp c).crcFailCount = c.crcFailCount := rfl
@[simp] theorem stamp_transport (c : Context) : (stamp c).transport = c.transport := rfl
@[simp] theorem stamp_events (c : Context) : (stamp c).events = c.events := rfl
@[simp] theorem stamp_fault (c : Context) : (stamp c).fault = c.fault := rfl
@[simp] theorem stamp_refused (c : Context) : (stamp c).refused = c.refused := rfl
@[simp] theorem stamp_item? (c : Context) (k : Nat) : (stamp c).item? k = c.item? k := rfl
@[simp] theorem stamp_marked (c : Context) : (stamp c).marked = c.marked := rfl

theorem stamp_wf {c : Context} (h : c.tx.wf) : (stamp c).tx.wf :=
  wf_putTx (wf_putTx h (by decide) _) (by decide) _

theorem stamp_txByte {c : Context} (h : c.tx.wf) (o : Nat) : (stamp c).txByte o =
    if o = 25 then byteOf (crc16 (c.tx.readBytes 0 nCovered)) 1
    else if o = 24 then byteOf (crc16 (c.tx.readBytes 0 nCovered)) 0 else c.txByte o := by
  unfold stamp
  rw [Context.txByte_putTx (wf_putTx h (by decide) _), Context.txByte_putTx h]
  rfl

/-! ### The busy step -/

@[simp] theorem busyStep_count (p : Params) (c : Context) (it : Item) : (busyStep p c it).count = c.count := by
  simp [busyStep]
@[simp] theorem busyStep_cursor (p : Params) (c : Context) (it : Item) : (busyStep p c it).cursor = c.cursor := by
  simp [busyStep]
@[simp] theorem busyStep_tx (p : Params) (c : Context) (it : Item) : (busyStep p c it).tx = c.tx := by simp [busyStep]
@[simp] theorem busyStep_rx (p : Params) (c : Context) (it : Item) : (busyStep p c it).rx = c.rx := by simp [busyStep]
@[simp] theorem busyStep_crcFailCount (p : Params) (c : Context) (it : Item) :
    (busyStep p c it).crcFailCount = c.crcFailCount := by simp [busyStep]
@[simp] theorem busyStep_transport (p : Params) (c : Context) (it : Item) :
    (busyStep p c it).transport = c.transport := by simp [busyStep]
@[simp] theorem busyStep_fault (p : Params) (c : Context) (it : Item) : (busyStep p c it).fault = c.fault := by
  simp [busyStep]
@[simp] theorem busyStep_refused (p : Params) (c : Context) (it : Item) : (busyStep p c it).refused = c.refused := by
  simp [busyStep]
@[simp] theorem busyStep_txByte (p : Params) (c : Context) (it : Item) (o : Nat) :
    (busyStep p c it).txByte o = c.txByte o := by simp [Context.txByte]

theorem busyStep_items (p : Params) (c : Context) (it : Item) :
    (busyStep p c it).items = cellPut c.cursor { it with busyCycles := satInc it.busyCycles p.busySat } c.items := by
  simp [busyStep]

theorem busyStep_item? (p : Params) (c : Context) (it : Item) (k : Nat) : (busyStep p c it).item? k =
    if k = c.cursor then some { it with busyCycles := satInc it.busyCycles p.busySat } else c.item? k := by
  rw [Context.item?, busyStep_items, cellGet_put]; rfl

theorem busyStep_events (p : Params) (c : Context) (it : Item) : (busyStep p c it).events =
    if satInc it.busyCycles p.busySat ≠ it.busyCycles ∧ satInc it.busyCycles p.busySat = busyTimeout
    then c.events ++ [.diag (.sdcTimeout c.cursor it.address)] else c.events := by
  simp [busyStep]

/-! ### DISPATCH -/

@[simp] theorem dispatch_count (c : Context) (j : Nat) (it : Item) : (dispatch c j it).count = c.count := rfl
@[simp] theorem dispatch_cursor (c : Context) (j : Nat) (it : Item) : (dispatch c j it).cursor = j := rfl
@[simp] theorem dispatch_rx (c : Context) (j : Nat) (it : Item) : (dispatch c j it).rx = c.rx := rfl
@[simp] theorem dispatch_crcFailCount (c : Context) (j : Nat) (it : Item) :
    (dispatch c j it).crcFailCount = c.crcFailCount := rfl
@[simp] theorem dispatch_transport (c : Context) (j : Nat) (it : Item) : (dispatch c j it).transport = c.transport := rfl
@[simp] theorem dispatch_events (c : Context) (j : Nat) (it : Item) : (dispatch c j it).events = c.events := rfl
@[simp] theorem dispatch_fault (c : Context) (j : Nat) (it : Item) : (dispatch c j it).fault = c.fault := rfl
@[simp] theorem dispatch_refused (c : Context) (j : Nat) (it : Item) : (dispatch c j it).refused = c.refused := rfl

theorem dispatch_items (c : Context) (j : Nat) (it : Item) :
    (dispatch c j it).items = cellPut j { it with busyCycles := 1, requested := false } c.items := rfl

theorem dispatch_item? (c : Context) (j : Nat) (it : Item) (k : Nat) : (dispatch c j it).item? k =
    if k = j then some { it with busyCycles := 1, requested := false } else c.item? k :=
  cellGet_put j _ c.items k

theorem dispatch_wf {c : Context} (h : c.tx.wf) (j : Nat) (it : Item) : (dispatch c j it).tx.wf :=
  wf_putTx (wf_putTx (wf_putTx (wf_putTx h (by decide) _) (by decide) _) (by decide) _) (by decide) _

theorem dispatch_txByte {c : Context} (h : c.tx.wf) (j : Nat) (it : Item) (o : Nat) : (dispatch c j it).txByte o =
    if o = 3 then dispatchByte3 (c.txByte 3) it else if o = 2 then byteOf it.address 0
    else if o = 1 then byteOf it.value 1 else if o = 0 then byteOf it.value 0 else c.txByte o := by
  have h0 := wf_putTx h (o := 0) (by decide) (byteOf it.value 0)
  have h1 := wf_putTx h0 (o := 1) (by decide) (byteOf it.value 1)
  have h2 := wf_putTx h1 (o := 2) (by decide) (byteOf it.address 0)
  simp only [dispatch, Context.moveCursor_txByte, Context.putItem_txByte]
  rw [Context.txByte_putTx h2, Context.txByte_putTx h1, Context.txByte_putTx h0, Context.txByte_putTx h]

/-! ### Accept -/

@[simp] theorem accept_count (c : Context) (it : Item) (r : SdcRec) : (accept c it r).count = c.count := rfl
@[simp] theorem accept_cursor (c : Context) (it : Item) (r : SdcRec) :
    (accept c it r).cursor = (c.cursor + 1) % c.count := rfl
@[simp] theorem accept_tx (c : Context) (it : Item) (r : SdcRec) : (accept c it r).tx = c.tx := rfl
@[simp] theorem accept_rx (c : Context) (it : Item) (r : SdcRec) : (accept c it r).rx = c.rx := rfl
@[simp] theorem accept_crcFailCount (c : Context) (it : Item) (r : SdcRec) :
    (accept c it r).crcFailCount = c.crcFailCount := rfl
@[simp] theorem accept_transport (c : Context) (it : Item) (r : SdcRec) : (accept c it r).transport = c.transport := rfl
@[simp] theorem accept_events (c : Context) (it : Item) (r : SdcRec) : (accept c it r).events = c.events := rfl
@[simp] theorem accept_fault (c : Context) (it : Item) (r : SdcRec) : (accept c it r).fault = c.fault := rfl
@[simp] theorem accept_refused (c : Context) (it : Item) (r : SdcRec) : (accept c it r).refused = c.refused := rfl

theorem accept_items (c : Context) (it : Item) (r : SdcRec) : (accept c it r).items = cellPut c.cursor
    { it with busyCycles := 0, completed := true, value := r.value, errored := r.error } c.items := rfl

theorem accept_item? (c : Context) (it : Item) (r : SdcRec) (k : Nat) : (accept c it r).item? k =
    if k = c.cursor then some { it with busyCycles := 0, completed := true, value := r.value, errored := r.error }
    else c.item? k :=
  cellGet_put c.cursor _ c.items k

/-! ### The checksum failure and the commit -/

theorem crcFailure_eq (p : Params) (c : Context) : crcFailure p c =
    { c with
      crcFailCount := satInc c.crcFailCount p.crcFailSat
      events := c.events ++ if c.crcFailCount = 0 then [.diag .crcMismatch] else [] } := by
  cases c with
  | mk items count cursor tx rx n tr ev f r =>
    by_cases h : n = 0 <;> simp [crcFailure, Context.emitIf, Context.emit, Context.append, h]

theorem commit_eq (c : Context) (f : List Byte) : commit c f =
    { c with
      crcFailCount := 0
      rx := some (Memory.ofFrame f)
      events := c.events ++ if 0 < c.crcFailCount then [.diag (.crcRecovered c.crcFailCount)] else [] } := by
  cases c with
  | mk items count cursor tx rx n tr ev g r =>
    by_cases h : 0 < n <;> simp [commit, Context.emitIf, Context.emit, Context.append, h]

end Sys2Proof.Machine
end

