-- ==== Sys2Proof/Laws/Effect.lean ====
section
/-!
SUPPORT. Everything an operation other than RESET can do, said once: the ways a next state comes about. Claims about every
operation are case analyses of `exec_effect`.
-/

namespace Sys2Proof.Machine

/-- The next states an operation can answer from a state. -/
inductive Effect (s : State) (i : Instr) : State → Prop
  /-- Only a result: a pure operation, NOT_READY, or a context that carries a mark. -/
  | returns (r : Result) : Effect s i (s.return r)
  /-- The refusal outcome of a host operation. -/
  | refuses (why : RefuseReason) (hm : s.ctx.marked = false) : Effect s i (s.refuse why)
  /-- The fault of SCHED. -/
  | faults (hm : s.ctx.marked = false) (hi : Schedules i) (h : sched s.params s.ctx = .error .cursorOutOfRange) :
      Effect s i (s.raiseFault .cursorOutOfRange)
  /-- SCHED, as itself or as an outbound sub-frame kind. -/
  | schedules (c : Context) (hm : s.ctx.marked = false) (hi : Schedules i) (ha : ∀ a, i ≠ .cycle a)
      (h : sched s.params s.ctx = .ok c) : Effect s i ((s.withCtx c).return .noValue)
  /-- STAMP. -/
  | stamps (hm : s.ctx.marked = false) (hi : i = .stamp) : Effect s i ((s.withCtx (stamp s.ctx)).return .noValue)
  /-- MATCH, as itself or as an inbound sub-frame kind. -/
  | matching (r : SdcRec) (c : Context) (hm : s.ctx.marked = false) (hi : MovesCursor i) (ha : ∀ a, i ≠ .cycle a)
      (h : matchRec s.ctx r = .ok c) : Effect s i ((s.withCtx c).return .noValue)
  /-- The exchange of a CYCLE on an open transport. -/
  | cycles (a : Answer) (c : Context) (t : State) (hm : s.ctx.marked = false) (hi : i = .cycle a)
      (ho : s.ctx.transport = .opened) (hs : sched s.params s.ctx = .ok c)
      (h : exchange a (s.withCtx (stamp c)) = .next t) : Effect s i t
  /-- H.OPEN with its setup done. -/
  | opens (hm : s.ctx.marked = false) (hi : i = .hOpen .ok) (h : s.ctx.transport = .unopened) :
      Effect s i ((s.withCtx { s.ctx with transport := .opened }).return .ok)
  /-- H.OPEN with its setup failed. -/
  | setupFails (hm : s.ctx.marked = false) (hi : i = .hOpen .fail) (h : s.ctx.transport = .unopened) :
      Effect s i ((s.withCtx (s.ctx.emit .setupFailure)).return .setupFail)
  /-- H.CLOSE. -/
  | closes (hm : s.ctx.marked = false) (hi : i = .hClose) (h : s.ctx.transport = .opened) :
      Effect s i ((s.withCtx { s.ctx with transport := .closed }).return .ok)
  /-- H.SETCOUNT. -/
  | counts (n : Nat) (hm : s.ctx.marked = false) (hi : i = .hSetCount n) (h : n ≤ s.params.sdcCapacity)
      (hc : s.ctx.configured n = true) : Effect s i ((s.withCtx { s.ctx with count := n }).return .ok)
  /-- H.CONFIG. -/
  | configs (k : Nat) (raw : RawItem) (hm : s.ctx.marked = false) (hi : i = .hConfig k raw)
      (hk : k < s.params.sdcCapacity) (hb : raw.busyCycles = 0) :
      Effect s i ((s.withCtx (s.ctx.putItem k (rawToItem raw))).return .ok)
  /-- H.WRITEITEM. -/
  | writes (k : Nat) (field : ItemField) (v : Nat) (it : Item) (hm : s.ctx.marked = false)
      (hi : i = .hWriteItem k field v) (hk : k < s.params.sdcCapacity) (h : s.ctx.item? k = some it)
      (hb : field = .busyCycles → v = 0) :
      Effect s i ((s.withCtx (s.ctx.putItem k (it.setField field v))).return .ok)
  /-- H.WRITETX. -/
  | writesTx (o b : Nat) (hm : s.ctx.marked = false) (hi : i = .hWriteTx o b) (h4 : 4 ≤ o) (h23 : o ≤ 23)
      (hb : b ≤ 0xFF) : Effect s i ((s.withCtx (s.ctx.putTx o (BitVec.ofNat 8 b))).return .ok)

theorem checkSlot_ok {p : Params} {c : Context} {k : Nat} {it : Item} (h : checkSlot p c k = .ok it) :
    k < p.sdcCapacity ∧ c.item? k = some it := by
  unfold checkSlot at h
  split at h
  · cases h
  next hk =>
  split at h
  · cases h
  next hit => cases h; exact ⟨by omega, hit⟩

theorem effect_of_answer {s t : State} {i : Instr} {r : Result} (h : s.answer r = .next t) : Effect s i t := by
  obtain ⟨r', rfl⟩ := answer_next h
  exact .returns r'

theorem effect_of_send {s t : State} {i : Instr} {r : SdcRec} (hi : Schedules i) (ha : ∀ a, i ≠ .cycle a)
    (h : sendSubframe r s = .next t) : Effect s i t := by
  rcases unlessMarked_next h with ⟨_, rfl⟩ | ⟨hm, h⟩
  · exact .returns _
  rcases andThen_next h with ⟨c, hc, h⟩ | ⟨hc, rfl⟩
  · split at h
    · cases h; exact .schedules c hm hi ha hc
    · cases h
  · exact .faults hm hi hc

theorem effect_of_receive {s t : State} {i : Instr} {r : SdcRec} (hi : MovesCursor i) (ha : ∀ a, i ≠ .cycle a)
    (h : receiveSubframe r s = .next t) : Effect s i t := by
  rcases unlessMarked_next h with ⟨_, rfl⟩ | ⟨hm, h⟩
  · exact .returns _
  rcases andThen_next h with ⟨c, hc, h⟩ | ⟨hc, _⟩
  · cases h; exact .matching r c hm hi ha hc
  · exact absurd hc (matchRec_ne_cursorOutOfRange _ _)

theorem effect_of_checked {α : Type} {s t : State} {i : Instr} {r : Except RefuseReason α} {k : α → State}
    (hm : s.ctx.marked = false) (h : s.checked r k = .next t) (hk : ∀ a, r = .ok a → Effect s i (k a)) : Effect s i t := by
  rcases checked_next h with ⟨a, ha, rfl⟩ | ⟨why, _, rfl⟩
  · exact hk a ha
  · exact .refuses why hm

/-- What an operation other than RESET can do. -/
theorem exec_effect {s t : State} {i : Instr} (hi : i ≠ .reset) (h : exec i s = .next t) : Effect s i t := by
  have outbound : ∀ {j : Instr} {bs}, encode j = some (.outbound, bs) → Schedules j := fun hj => .inr (.inr ⟨_, hj⟩)
  have inbound : ∀ {j : Instr} {p}, encode j = some p → MovesCursor j := fun hj => .inr (.inr (.inr (by rw [hj]; rfl)))
  cases i with
  | sdcRdReq v a r => exact effect_of_send (outbound rfl) (by simp) h
  | sdcWrReq v a r => exact effect_of_send (outbound rfl) (by simp) h
  | sdcOutErr v a w r => exact effect_of_send (outbound rfl) (by simp) h
  | sdcRdResp v a r => exact effect_of_receive (inbound rfl) (by simp) h
  | sdcWrEcho v a r => exact effect_of_receive (inbound rfl) (by simp) h
  | sdcRdErr v a r => exact effect_of_receive (inbound rfl) (by simp) h
  | sdcWrErr v a r => exact effect_of_receive (inbound rfl) (by simp) h
  | crc16 bs => exact effect_of_answer h
  | stamp =>
    change execStamp s = .next t at h
    rcases unlessMarked_next h with ⟨_, rfl⟩ | ⟨hm, h⟩
    · exact .returns _
    cases h; exact .stamps hm rfl
  | validate f => exact effect_of_answer h
  | sdcEnc r => exact effect_of_answer h
  | sdcDec b => exact effect_of_answer h
  | outEnc o => exact effect_of_answer h
  | outDec f => exact effect_of_answer h
  | inEnc r => exact effect_of_answer h
  | inDec f => exact effect_of_answer h
  | sched =>
    change execSched s = .next t at h
    rcases unlessMarked_next h with ⟨_, rfl⟩ | ⟨hm, h⟩
    · exact .returns _
    rcases andThen_next h with ⟨c, hc, h⟩ | ⟨hc, rfl⟩
    · cases h; exact .schedules c hm (.inl rfl) (by simp) hc
    · exact .faults hm (.inl rfl) hc
  | matchSdc f => exact effect_of_receive (r := decodeSdc (f.take sdcLen)) (.inr (.inl ⟨f, rfl⟩)) (by simp) h
  | cycle a =>
    rcases execCycle_next h with ⟨_, rfl⟩ | ⟨_, _, rfl⟩ | ⟨hm, ho, ⟨hs, rfl⟩ | ⟨c, hs, h⟩⟩
    · exact .returns _
    · exact .returns _
    · exact .faults hm (.inr (.inl ⟨a, rfl⟩)) hs
    · exact .cycles a c t hm rfl ho hs h
  | hOpen o =>
    change execHOpen o s = .next t at h
    rcases unlessMarked_next h with ⟨_, rfl⟩ | ⟨hm, h⟩
    · exact .returns _
    split at h
    · cases h; exact .refuses _ hm
    next hu =>
    have hu : s.ctx.transport = .unopened := by simpa using hu
    cases o with
    | ok => cases h; exact .opens hm rfl hu
    | fail => cases h; exact .setupFails hm rfl hu
  | hClose =>
    change execHClose s = .next t at h
    rcases unlessMarked_next h with ⟨_, rfl⟩ | ⟨hm, h⟩
    · exact .returns _
    split at h
    · cases h; exact .refuses _ hm
    next hu => cases h; exact .closes hm rfl (by simpa using hu)
  | hSetCount n =>
    change execHSetCount n s = .next t at h
    rcases unlessMarked_next h with ⟨_, rfl⟩ | ⟨hm, h⟩
    · exact .returns _
    refine effect_of_checked hm h fun m hc => ?_
    unfold checkCount at hc
    split at hc
    · cases hc
    next hn =>
    split at hc
    · cases hc
    next hcfg => cases hc; exact .counts n hm rfl (by omega) (by simpa using hcfg)
  | hConfig k raw =>
    change execHConfig k raw s = .next t at h
    rcases unlessMarked_next h with ⟨_, rfl⟩ | ⟨hm, h⟩
    · exact .returns _
    refine effect_of_checked hm h fun it hc => ?_
    unfold checkConfig at hc
    split at hc
    · cases hc
    next hk =>
    split at hc
    · cases hc
    split at hc
    · cases hc
    split at hc
    · cases hc
    next hb =>
    split at hc
    · cases hc
    cases hc; exact .configs k raw hm rfl (by omega) (by simpa using hb)
  | hWriteItem k field v =>
    change execHWriteItem k field v s = .next t at h
    rcases unlessMarked_next h with ⟨_, rfl⟩ | ⟨hm, h⟩
    · exact .returns _
    refine effect_of_checked hm h fun it' hc => ?_
    unfold checkWriteItem at hc
    split at hc
    · cases hc
    next it hs =>
    split at hc
    · cases hc
    next hb =>
    split at hc
    · cases hc
    obtain ⟨hk, hit⟩ := checkSlot_ok hs
    cases hc; exact .writes k field v it hm rfl hk hit (by simpa using hb)
  | hReadItem k =>
    change execHReadItem k s = .next t at h
    rcases unlessMarked_next h with ⟨_, rfl⟩ | ⟨hm, h⟩
    · exact .returns _
    exact effect_of_checked hm h fun it _ => .returns _
  | hReadCtx => exact effect_of_answer h
  | hWriteTx o b =>
    change execHWriteTx o b s = .next t at h
    rcases unlessMarked_next h with ⟨_, rfl⟩ | ⟨hm, h⟩
    · exact .returns _
    refine effect_of_checked hm h fun v hc => ?_
    unfold checkWriteTx at hc
    split at hc
    · cases hc
    next ho =>
    split at hc
    · cases hc
    next hb =>
    simp only [sdcLen, nFrame] at ho
    cases hc; exact .writesTx o b hm rfl (by omega) (by omega) (by omega)
  | hReadTx o =>
    change execHReadTx o s = .next t at h
    rcases unlessMarked_next h with ⟨_, rfl⟩ | ⟨hm, h⟩
    · exact .returns _
    exact effect_of_checked hm h fun v _ => .returns _
  | hReadRx o =>
    change execHReadRx o s = .next t at h
    rcases unlessMarked_next h with ⟨_, rfl⟩ | ⟨hm, h⟩
    · exact .returns _
    exact effect_of_checked hm h fun v _ => .returns _
  | reset => exact absurd rfl hi

end Sys2Proof.Machine
end

