-- ==== Sys2Proof/Machine/Instances.lean ====
section
/-!
DEFINITION. Several instances of the block: "Several contexts share no state", and "the rules of this spec apply to each
separately" (60_exceptions.md R183; 92_eei_decisions.md D28). Each instance is one machine of its own, with its context,
parameters and ports, and moves by the one step of the machine, so its ports carry what they carry of a single block
(30_encoding.md R77) and refuse an answer of another length (R182).
-/

namespace Sys2Proof.Machine

/-- One step of instance `k`: its oldest request runs on it, and every other instance keeps its whole state. -/
def stepAt {n : Nat} (k : Fin n) (ms : Vector State n) : Host.Outcome (Vector State n) Fault Refusal :=
  match step ms[k] with
  | .next t => .next (ms.set k t)
  | .fault why => .fault why
  | .refused why => .refused why

/-- Steps of several instances in the order given, any interleaving, up to the first that stops. -/
def runAt {n : Nat} : List (Fin n) → Vector State n → Host.Outcome (Vector State n) Fault Refusal
  | [], ms => .next ms
  | k :: ks, ms =>
    match stepAt k ms with
    | .next ms' => runAt ks ms'
    | .fault why => .fault why
    | .refused why => .refused why

end Sys2Proof.Machine
end

