-- ==== Sys2Proof/Laws/Instances.lean ====
section
/-!
SUPPORT. What a step of one of several instances can do: it is that instance's step, and no other instance changes
(60_exceptions.md R183).
-/

namespace Sys2Proof.Machine

/-- Everything a step of instance `k` can do when it does not stop. -/
theorem stepAt_next {n : Nat} {k : Fin n} {ms ms' : Vector State n} (h : stepAt k ms = .next ms') :
    step ms[k] = .next ms'[k] ∧ ∀ j : Fin n, j ≠ k → ms'[j] = ms[j] := by
  unfold stepAt at h
  split at h
  · next t ht =>
    cases h
    refine ⟨by simpa using ht, fun j hj => ?_⟩
    simpa using Vector.getElem_set_ne k.isLt j.isLt fun e => hj (Fin.ext e.symm)
  · cases h
  · cases h

/-- A step of instance `k` completes when the machine's step does. -/
theorem stepAt_of_step {n : Nat} {k : Fin n} {ms : Vector State n} {t : State} (h : step ms[k] = .next t) :
    stepAt k ms = .next (ms.set k t) := by
  rw [stepAt, h]

/-- Steps of different instances commute: "operations on different contexts commute" (92_eei_decisions.md D28). -/
theorem runAt_comm {n : Nat} {k l : Fin n} {ms : Vector State n} {t u : State} (hkl : k ≠ l)
    (hk : step ms[k] = .next t) (hl : step ms[l] = .next u) : runAt [k, l] ms = runAt [l, k] ms := by
  have e : (k : Nat) ≠ l := fun e => hkl (Fin.ext e)
  have h1 : step (ms.set k t)[l] = .next u := by simpa [Vector.getElem_set, e] using hl
  have h2 : step (ms.set l u)[k] = .next t := by simpa [Vector.getElem_set, e.symm] using hk
  simp only [runAt, stepAt_of_step hk, stepAt_of_step hl, stepAt_of_step h1, stepAt_of_step h2]
  rw [Vector.set_comm _ _ e]

end Sys2Proof.Machine
end

