-- ==== Sys2Proof/Laws/Runs.lean ====
section
/-!
SUPPORT. When operations complete: a marked context refuses every operation, SCHED takes the branch its context selects, and
the outbound sub-frame that a dispatch leaves (42_scheduler.md R120 to R123; 60_exceptions.md R178, R179).
-/

namespace Sys2Proof.Machine

/-- On a context that carries a mark every operation but RESET is refused and writes nothing (60_exceptions.md R179). -/
theorem exec_of_marked {s : State} (h : s.ctx.marked = true) {i : Instr} (hi : i ≠ .reset) :
    exec i s = .next (s.return (.refusedFor .afterFaultOrRefusal)) := by
  cases i <;> first
    | exact absurd rfl hi
    | simp only [exec, execSdcRdReq, execSdcWrReq, execSdcOutErr, execSdcRdResp, execSdcWrEcho, execSdcRdErr, execSdcWrErr,
        sendSubframe, receiveSubframe, execCrc16, execStamp, execValidate, execSdcEnc, execSdcDec, execOutEnc, execOutDec,
        execInEnc, execInDec, execSched, execMatch, execCycle, execHOpen, execHClose, execHSetCount, execHConfig,
        execHWriteItem, execHReadItem, execHReadCtx, execHWriteTx, execHReadTx, execHReadRx, State.answer,
        unlessMarked_of_marked h]

/-- SCHED as itself from an unmarked context. -/
theorem exec_sched_ok {s : State} (h : s.ctx.marked = false) {c : Context} (hc : sched s.params s.ctx = .ok c) :
    exec .sched s = .next ((s.withCtx c).return .noValue) := by
  show execSched s = _
  rw [execSched, unlessMarked_of_unmarked h, hc]
  rfl

/-- An outbound sub-frame kind is the SCHED step that leaves its sub-frame in tx. -/
theorem send_eq {s : State} (h : s.ctx.marked = false) {c : Context} (hc : sched s.params s.ctx = .ok c) (r : SdcRec) :
    sendSubframe r s =
      if c.outboundSdc = r then .next ((s.withCtx c).return .noValue) else .refused .subframeNotSent := by
  rw [sendSubframe, unlessMarked_of_unmarked h, hc]
  rfl

/-- An inbound sub-frame kind and MATCH on a frame that begins with the same sub-frame are one step (43_matcher.md R130). -/
theorem exec_receives {s : State} {i : Instr} {r : SdcRec} (h : i = sdcKind .inbound r ∨ ∃ f, i = .matchSdc f ∧
    decodeSdc (f.take sdcLen) = r) : exec i s = receiveSubframe r s := by
  rcases h with rfl | ⟨f, rfl, rfl⟩
  · obtain ⟨v, a, w, e, rs⟩ := r
    cases w <;> cases e <;> rfl
  · rfl

/-- MATCH from an unmarked context. -/
theorem receive_eq {s : State} (h : s.ctx.marked = false) {r : SdcRec} {c : Context} (hc : matchRec s.ctx r = .ok c) :
    receiveSubframe r s = .next ((s.withCtx c).return .noValue) := by
  rw [receiveSubframe, unlessMarked_of_unmarked h, hc]
  rfl

theorem sched_empty {p : Params} {c : Context} (h : c.count = 0) : sched p c = .ok c := if_pos h

/-- SCHED with its cursor in the table and the cursor's item in flight. -/
theorem sched_busy {p : Params} {c : Context} {it : Item} (hlt : c.cursor < c.count) (hcur : c.item? c.cursor = some it)
    (hb : 0 < it.busyCycles) : sched p c = .ok (busyStep p c it) := by
  simp [sched, show c.count ≠ 0 by omega, show ¬ c.count ≤ c.cursor by omega, hcur, Item.inFlight, hb]

/-- SCHED with its cursor in the table and the cursor's item not in flight, when its scan ends. -/
theorem sched_scan {p : Params} {c : Context} {it : Item} {q : Option (Nat × Item)} (hlt : c.cursor < c.count)
    (hcur : c.item? c.cursor = some it) (hb : it.busyCycles = 0) (hs : scan c = .ok q) :
    sched p c = .ok (q.elim c fun q => dispatch c q.1 q.2) := by
  cases q <;>
    simp [sched, show c.count ≠ 0 by omega, show ¬ c.count ≤ c.cursor by omega, hcur, Item.inFlight, hb, hs]

theorem not_eligible {it : Item} (hf : it.factor = 0) (hr : it.requested = false) : it.eligible = false := by
  simp [Item.eligible, hf, hr]

theorem scan_none {c : Context} (h : NoneEligible c) : scan c = .ok none := by
  rw [scan, ← List.append_nil (scanOrder c.count c.cursor), scanSlots_append]
  · rfl
  · intro k hk
    obtain ⟨d, hd, rfl⟩ := mem_scanOrder.mp hk
    obtain ⟨it, hit, hf, hr⟩ := h _ (Nat.mod_lt _ (by omega))
    exact ⟨it, hit, not_eligible hf hr⟩

/-- The scan finds the first eligible slot (42_scheduler.md R122). -/
theorem scan_first {c : Context} {j : Nat} {it : Item} (h : FirstEligible c j it) : scan c = .ok (some (j, it)) := by
  obtain ⟨d, hd, rfl, hit, he, hfirst⟩ := h
  obtain ⟨m, hm⟩ : ∃ m, c.count = d + (m + 1) := ⟨c.count - d - 1, by omega⟩
  have hsplit : List.range c.count = List.range d ++ d :: (List.range m).map (d + 1 + ·) := by
    rw [hm, List.range_add, List.range_succ_eq_map, List.map_cons, List.map_map]
    simp [Function.comp_def, Nat.add_assoc, Nat.add_comm 1]
  rw [scan, scanOrder, hsplit, List.map_append, scanSlots_append]
  · have : it.eligible = true := by simpa [Item.eligible] using he
    simp [scanSlots, hit, this]
  · intro k hk
    obtain ⟨e, he', rfl⟩ := List.mem_map.mp hk
    obtain ⟨it', hit', hf, hr⟩ := hfirst e (List.mem_range.mp he')
    exact ⟨it', hit', not_eligible hf hr⟩

theorem sched_dispatch {s : State} {j : Nat} {it : Item} (hs : s.CanScan) (h : FirstEligible s.ctx j it) :
    sched s.params s.ctx = .ok (dispatch s.ctx j it) := by
  obtain ⟨_, hlt, cur, hcur, hb⟩ := hs
  exact sched_scan hlt hcur hb (scan_first h)

/-- The four bytes of the outbound sub-frame as tx holds them. -/
theorem outboundSdc_eq (c : Context) :
    c.outboundSdc = decodeSdc [c.txByte 0, c.txByte 1, c.txByte 2, c.txByte 3] := rfl

end Sys2Proof.Machine
end

