-- ==== Sys2Proof/Laws/Keeps.lean ====
section
/-!
SUPPORT. What SCHED, MATCH and the exchange leave as it was, and what each adds to the events: the write column of
10_state.md R33 to R39 for the three engine steps.
-/

namespace Sys2Proof.Machine

/-- SCHED writes the items, the cursor, tx[0..3] and the events, nothing else (42_scheduler.md R120). -/
theorem sched_keeps {p : Params} {c c' : Context} (h : sched p c = .ok c') :
    c'.count = c.count ∧ c'.rx = c.rx ∧ c'.crcFailCount = c.crcFailCount ∧ c'.transport = c.transport ∧
      c'.fault = c.fault ∧ c'.refused = c.refused := by
  rcases sched_ok h with ⟨_, rfl⟩ | ⟨_, it, _, ⟨_, rfl⟩ | ⟨_, ⟨j, it', _, rfl⟩ | ⟨_, rfl⟩⟩⟩ <;> simp

/-- SCHED appends at most one event, an SdcTimeout (42_scheduler.md R121). -/
theorem sched_events {p : Params} {c c' : Context} (h : sched p c = .ok c') :
    c'.events = c.events ∨ ∃ k a, c'.events = c.events ++ [.diag (.sdcTimeout k a)] := by
  rcases sched_ok h with ⟨_, rfl⟩ | ⟨_, it, _, ⟨_, rfl⟩ | ⟨_, ⟨j, it', _, rfl⟩ | ⟨_, rfl⟩⟩⟩
  · exact .inl rfl
  · rw [busyStep_events]
    split
    · exact .inr ⟨_, _, rfl⟩
    · exact .inl rfl
  · exact .inl rfl
  · exact .inl rfl

/-- SCHED keeps the outbound frame beyond its sub-frame (10_state.md R35). -/
theorem sched_txByte {p : Params} {c c' : Context} (hw : c.tx.wf) (h : sched p c = .ok c') {o : Nat} (ho : 4 ≤ o) :
    c'.txByte o = c.txByte o := by
  rcases sched_ok h with ⟨_, rfl⟩ | ⟨_, it, _, ⟨_, rfl⟩ | ⟨_, ⟨j, it', _, rfl⟩ | ⟨_, rfl⟩⟩⟩
  · rfl
  · simp
  · rw [dispatch_txByte hw, if_neg (by omega), if_neg (by omega), if_neg (by omega), if_neg (by omega)]
  · rfl

theorem sched_wf {p : Params} {c c' : Context} (hw : c.tx.wf) (h : sched p c = .ok c') : c'.tx.wf := by
  rcases sched_ok h with ⟨_, rfl⟩ | ⟨_, it, _, ⟨_, rfl⟩ | ⟨_, ⟨j, it', _, rfl⟩ | ⟨_, rfl⟩⟩⟩
  · exact hw
  · simpa using hw
  · exact dispatch_wf hw j it'
  · exact hw

/-- What SCHED may do to one slot: nothing, count its busy cycles, or dispatch it (10_state.md R28, R29). -/
theorem sched_item? {p : Params} {c c' : Context} (h : sched p c = .ok c') (k : Nat) :
    c'.item? k = c.item? k ∨ ∃ it, c.item? k = some it ∧
      ((k = c.cursor ∧ c'.cursor = k ∧ 0 < it.busyCycles ∧
          c'.item? k = some { it with busyCycles := satInc it.busyCycles p.busySat }) ∨
       (c'.cursor = k ∧ c'.item? k = some { it with busyCycles := 1, requested := false })) := by
  rcases sched_ok h with ⟨_, rfl⟩ | ⟨_, it, hit, ⟨hb, rfl⟩ | ⟨_, ⟨j, it', hs, rfl⟩ | ⟨_, rfl⟩⟩⟩
  · exact .inl rfl
  · by_cases hk : k = c.cursor
    · subst hk
      exact .inr ⟨it, hit, .inl ⟨rfl, by simp, by simpa [Item.inFlight] using hb, by simp [busyStep_item?]⟩⟩
    · exact .inl (by simp [busyStep_item?, hk])
  · by_cases hk : k = j
    · subst hk
      exact .inr ⟨it', (scan_eq_some hs).2.1, .inr ⟨rfl, by simp [dispatch_item?]⟩⟩
    · exact .inl (by simp [dispatch_item?, hk])
  · exact .inl rfl

/-- MATCH writes the item at the cursor, the cursor and the events, nothing else (43_matcher.md R130 to R133). -/
theorem matchRec_keeps {c c' : Context} {r : SdcRec} (h : matchRec c r = .ok c') :
    c'.count = c.count ∧ c'.tx = c.tx ∧ c'.rx = c.rx ∧ c'.crcFailCount = c.crcFailCount ∧
      c'.transport = c.transport ∧ c'.fault = c.fault ∧ c'.refused = c.refused := by
  rcases matchRec_ok h with ⟨_, rfl⟩ | ⟨_, it, _, ⟨_, rfl⟩ | ⟨_, _, rfl⟩⟩ <;> simp

/-- MATCH appends at most one event, an SdcError (43_matcher.md R132). -/
theorem matchRec_events {c c' : Context} {r : SdcRec} (h : matchRec c r = .ok c') :
    c'.events = c.events ∨ ∃ k a v, c'.events = c.events ++ [.diag (.sdcError k a v)] := by
  rcases matchRec_ok h with ⟨_, rfl⟩ | ⟨_, it, _, ⟨_, rfl⟩ | ⟨_, _, rfl⟩⟩
  · exact .inl rfl
  · exact .inl rfl
  · cases hn : it.errorIsNew r
    · exact .inl rfl
    · exact .inr ⟨_, _, _, rfl⟩

/-- What MATCH may do to one slot: nothing, or accept the response for it (43_matcher.md R133). -/
theorem matchRec_item? {c c' : Context} {r : SdcRec} (h : matchRec c r = .ok c') (k : Nat) :
    c'.item? k = c.item? k ∨ ∃ it, k = c.cursor ∧ c.item? k = some it ∧
      it.mismatches r = false ∧ it.echoDiffers r = false ∧
      c'.item? k = some { it with busyCycles := 0, completed := true, value := r.value, errored := r.error } := by
  rcases matchRec_ok h with ⟨_, rfl⟩ | ⟨_, it, hit, ⟨_, rfl⟩ | ⟨h1, h2, rfl⟩⟩
  · exact .inl rfl
  · exact .inl rfl
  · by_cases hk : k = c.cursor
    · subst hk; exact .inr ⟨it, rfl, hit, h1, h2, by simp [accept_item?]⟩
    · exact .inl (by simp [accept_item?, hk])

/-- The three ends of an exchange, with the context each leaves (44_orchestrator.md R143 to R145). -/
theorem exchange_ctx {a : Answer} {s t : State} (h : exchange a s = .next t) :
    (a = .fail ∧ t.result = some .xferFail ∧ t.ctx = s.ctx.append (.exchange s.ctx.tx.frame a)) ∨
    (∃ f, a = .bytes f ∧ validate f = false ∧ t.result = some .crcFail ∧
      t.ctx = { s.ctx with
        crcFailCount := satInc s.ctx.crcFailCount s.params.crcFailSat
        events := (s.ctx.events ++ [.exchange s.ctx.tx.frame a]) ++
          if s.ctx.crcFailCount = 0 then [.diag .crcMismatch] else [] }) ∨
    (∃ f, a = .bytes f ∧ validate f = true ∧ t.result = some .ok ∧
      matchRec { s.ctx with
        crcFailCount := 0
        rx := some (Memory.ofFrame f)
        events := (s.ctx.events ++ [.exchange s.ctx.tx.frame a]) ++
          if 0 < s.ctx.crcFailCount then [.diag (.crcRecovered s.ctx.crcFailCount)] else [] }
        (decodeSdc (f.take sdcLen)) = .ok t.ctx) := by
  rcases exchange_next h with ⟨ha, rfl⟩ | ⟨f, ha, hv, rfl⟩ | ⟨f, c, ha, hv, hc, rfl⟩
  · exact .inl ⟨ha, rfl, rfl⟩
  · exact .inr (.inl ⟨f, ha, hv, rfl, crcFailure_eq _ _⟩)
  · rw [commit_eq] at hc
    exact .inr (.inr ⟨f, ha, hv, rfl, hc⟩)

theorem exchange_params {a : Answer} {s t : State} (h : exchange a s = .next t) :
    t.params = s.params ∧ t.pending = s.pending := by
  rcases exchange_next h with ⟨_, rfl⟩ | ⟨_, _, _, rfl⟩ | ⟨_, _, _, _, _, rfl⟩ <;> exact ⟨rfl, rfl⟩

/-- No operation writes the parameters or the requests that wait. -/
theorem exec_params {s t : State} {i : Instr} (h : exec i s = .next t) : t.params = s.params ∧ t.pending = s.pending := by
  by_cases hi : i = .reset
  · subst hi; cases h; exact ⟨rfl, rfl⟩
  · cases exec_effect hi h with
    | cycles a c t hm hi ho hs h => exact exchange_params (s := s.withCtx (stamp c)) h
    | _ => exact ⟨rfl, rfl⟩

end Sys2Proof.Machine
end

