-- ==== Sys2Proof/Laws/PerInstr.lean ====
section
/-!
SUPPORT. One statement about every instruction as syntax, by constructor: it reaches the block on a port or inside a CYCLE,
never both, and what has bytes has the four of a service sub-frame (30_encoding.md R76, R77).
-/

namespace Sys2Proof.Laws.Arrival

open Sys2Proof Sys2Proof.Machine

/-- No port carries the instruction exactly when it runs only inside CYCLE, and its bytes, where it has any, are four. -/
def Statement (i : Instr) : Prop :=
  (portOf i = none ↔ RunsInsideCycle i) ∧ ∀ d bs, encode i = some (d, bs) → bs.length = sdcLen

/-- A sub-frame kind: inside CYCLE, four bytes. -/
theorem of_subframe {i : Instr} {d : Direction} {r : SdcRec} (h : i.sdcFields = some (d, r)) (hp : portOf i = none) :
    Statement i := by
  simp only [Statement, RunsInsideCycle, encode, h, hp, Option.map_some, Option.isSome_some, Option.some.injEq, Prod.mk.injEq]
  exact ⟨by simp, by rintro _ _ ⟨_, rfl⟩; rfl⟩

/-- A step of CYCLE: no port, no bytes. -/
theorem of_inside {i : Instr} (h : RunsInsideCycle i) (hs : i.sdcFields = none) (hp : portOf i = none) : Statement i := by
  simp [Statement, encode, h, hs, hp]

/-- A port operation: a port, no bytes. -/
theorem of_port {i : Instr} {p : Port} (h : i.sdcFields = none) (hp : portOf i = some p) : Statement i := by
  refine ⟨⟨by simp [hp], ?_⟩, by simp [encode, h]⟩
  rintro (rfl | rfl | ⟨f, rfl⟩ | ⟨f, rfl⟩ | he)
  · cases hp
  · cases hp
  · cases hp
  · cases hp
  · simp [encode, h] at he

theorem sdcRdReq (v : Word16) (a : RegAddr) (r : BitVec 2) : Statement (.sdcRdReq v a r) := of_subframe rfl rfl
theorem sdcWrReq (v : Word16) (a : RegAddr) (r : BitVec 2) : Statement (.sdcWrReq v a r) := of_subframe rfl rfl
theorem sdcOutErr (v : Word16) (a : RegAddr) (w : Bool) (r : BitVec 2) : Statement (.sdcOutErr v a w r) := of_subframe rfl rfl
theorem sdcRdResp (v : Word16) (a : RegAddr) (r : BitVec 2) : Statement (.sdcRdResp v a r) := of_subframe rfl rfl
theorem sdcWrEcho (v : Word16) (a : RegAddr) (r : BitVec 2) : Statement (.sdcWrEcho v a r) := of_subframe rfl rfl
theorem sdcRdErr (v : Word16) (a : RegAddr) (r : BitVec 2) : Statement (.sdcRdErr v a r) := of_subframe rfl rfl
theorem sdcWrErr (v : Word16) (a : RegAddr) (r : BitVec 2) : Statement (.sdcWrErr v a r) := of_subframe rfl rfl
theorem crc16 (s : List Byte) : Statement (.crc16 s) := of_port rfl rfl
theorem stamp : Statement .stamp := of_inside (.inr (.inl rfl)) rfl rfl
theorem validate (f : List Byte) : Statement (.validate f) := of_inside (.inr (.inr (.inl ⟨f, rfl⟩))) rfl rfl
theorem sdcEnc (r : SdcRec) : Statement (.sdcEnc r) := of_port rfl rfl
theorem sdcDec (b : List Byte) : Statement (.sdcDec b) := of_port rfl rfl
theorem outEnc (o : OutRec) : Statement (.outEnc o) := of_port rfl rfl
theorem outDec (t : List Byte) : Statement (.outDec t) := of_port rfl rfl
theorem inEnc (r : InRec) : Statement (.inEnc r) := of_port rfl rfl
theorem inDec (f : List Byte) : Statement (.inDec f) := of_port rfl rfl
theorem sched : Statement .sched := of_inside (.inl rfl) rfl rfl
theorem matchSdc (f : List Byte) : Statement (.matchSdc f) :=
  of_inside (.inr (.inr (.inr (.inl ⟨f, rfl⟩)))) rfl rfl
theorem cycle (a : Answer) : Statement (.cycle a) := of_port rfl rfl
theorem hOpen (o : SetupOutcome) : Statement (.hOpen o) := of_port rfl rfl
theorem hClose : Statement .hClose := of_port rfl rfl
theorem hSetCount (n : Nat) : Statement (.hSetCount n) := of_port rfl rfl
theorem hConfig (k : Nat) (raw : RawItem) : Statement (.hConfig k raw) := of_port rfl rfl
theorem hWriteItem (k : Nat) (f : ItemField) (v : Nat) : Statement (.hWriteItem k f v) := of_port rfl rfl
theorem hReadItem (k : Nat) : Statement (.hReadItem k) := of_port rfl rfl
theorem hReadCtx : Statement .hReadCtx := of_port rfl rfl
theorem hWriteTx (o b : Nat) : Statement (.hWriteTx o b) := of_port rfl rfl
theorem hReadTx (o : Nat) : Statement (.hReadTx o) := of_port rfl rfl
theorem hReadRx (o : Nat) : Statement (.hReadRx o) := of_port rfl rfl
theorem reset : Statement .reset := of_port rfl rfl

end Sys2Proof.Laws.Arrival
end

