-- ==== Sys2Proof/Tests/Slice0.lean ====
section
/-!
SUPPORT. Tests of one step each, with expected results from 95_test_vectors.md (the vector is named at each), the decoding of
words written out from 30_encoding.md R71, the ill-formed operations, and for every statement with hypotheses a state and
operands that meet them.
-/

namespace Sys2Proof.Tests

open Sys2Proof Sys2Proof.Machine

set_option Elab.async false

/-! ### Helpers -/

/-- A predicate on the next state an operation answers; false where it answers none. -/
def after (o : Out) (p : State → Bool) : Bool :=
  match o with
  | .next t => p t
  | .fault _ => false
  | .refused _ => false

/-- The next state an operation answers. -/
def nextOf : Out → State
  | .next t => t
  | .fault _ => State.reset
  | .refused _ => State.reset

theorem next_of_after {o : Out} (h : after o (fun _ => true) = true) : o = .next (nextOf o) := by
  cases o with
  | next t => rfl
  | fault r => cases h
  | refused r => cases h

/-- The parameters of 95_test_vectors.md, "Conventions". -/
def params : Params := ⟨4, 255, 255, default⟩

/-- An item as 95_test_vectors.md writes it. -/
def item (a : RegAddr) (v : Word16) (f : Nat) (w req : Bool) (busy : Nat) (done err : Bool) : Item :=
  ⟨a, v, f, 0, w, req, busy, done, err⟩

/-- A machine with a table, a cursor and an open transport, everything else as RESET leaves it. -/
def table (items : List Item) (cursor : Nat) : State where
  params := params
  ctx := { Context.reset with
    items := (List.range items.length).zip items
    count := items.length
    cursor := cursor
    transport := .opened }
  pending := []
  result := none

/-- The machine after RESET with the parameters of the vectors. -/
def fresh : State := { State.reset with params := params }

/-- `F(b0 b1 b2 b3; c0 c1)` of 95_test_vectors.md. -/
def frameF (b0 b1 b2 b3 c0 c1 : Byte) : List Byte := [b0, b1, b2, b3] ++ List.replicate 20 0 ++ [c0, c1]

def idle : List Byte := frameF 0 0 0 0 0x7A 0xF7
def idleBad : List Byte := frameF 0 0 0 0 0x7A 0xF6
def a1234 : List Byte := frameF 0x34 0x12 0x01 0x00 0xD8 0x65
def becho : List Byte := frameF 0x01 0x00 0x0A 0x10 0x1F 0x8C

def pd3 : List Byte :=
  [0xEF, 0xBE, 0x02, 0x00, 0x03, 0x00, 0x00, 0x5A, 0x01, 0x00, 0x00, 0x00, 0x02, 0x00, 0x00, 0x00, 0x03, 0x00, 0x00,
   0x00, 0x34, 0x12, 0xCD, 0xAB, 0x0A, 0x3B]

/-- The first four bytes of the outbound frame. -/
def sub (s : State) : List Byte := s.ctx.tx.readBytes 0 4

/-! ### Ill-formed operations -/

theorem test_illformed :
    (Instr.validate (List.replicate 25 0)).wellFormed = false ∧ (Instr.sdcDec [0, 0, 0]).wellFormed = false ∧
    (Instr.outDec []).wellFormed = false ∧ (Instr.inDec (List.replicate 27 0)).wellFormed = false ∧
    (Instr.matchSdc [0, 0, 0, 0]).wellFormed = false ∧ (Instr.cycle (.bytes [0x7A])).wellFormed = false := by decide

theorem test_wellformed :
    (Instr.validate pd3).wellFormed = true ∧ (Instr.sdcDec [1, 2, 3, 4]).wellFormed = true ∧
    (Instr.outDec idle).wellFormed = true ∧ (Instr.inDec pd3).wellFormed = true ∧
    (Instr.matchSdc idle).wellFormed = true ∧ (Instr.cycle (.bytes pd3)).wellFormed = true ∧
    (Instr.cycle .fail).wellFormed = true := by decide

/-- A step refuses an answer of another length by name (60_exceptions.md R182), and SCHED, STAMP, VALIDATE, MATCH and a
sub-frame kind on every port (30_encoding.md R77). -/
theorem test_step_refuses :
    step { fresh with pending := [.operation .host (.cycle (.bytes [0]))] } = .refused .illFormed ∧
    (∀ p, step { fresh with pending := [.operation p .sched] } = .refused .wrongPort) ∧
    (∀ p, step { fresh with pending := [.operation p .stamp] } = .refused .wrongPort) ∧
    (∀ p, step { fresh with pending := [.operation p (.validate idle)] } = .refused .wrongPort) ∧
    (∀ p, step { fresh with pending := [.operation p (.matchSdc idle)] } = .refused .wrongPort) ∧
    ∀ p, step { fresh with pending := [.operation p (.sdcRdResp 0 0 0)] } = .refused .wrongPort :=
  ⟨rfl, fun p => by cases p <;> rfl, fun p => by cases p <;> rfl, fun p => by cases p <;> rfl, fun p => by cases p <;> rfl,
    fun p => by cases p <;> rfl⟩

/-! ### Decoding: words written out from 30_encoding.md R71 and R76 -/

-- value 0x1234, address 0x001, write 0, error 0, reserved 00: 34 12 | 01 | 00 0 0 0000
theorem test_decode_rd_req :
    decodeSubframe .outbound [0x34, 0x12, 0x01, 0x00] = .ok (.sdcRdReq 0x1234 0x001 0, []) := rfl
-- FC1: value 0x0001, address 0x00A, write 1: byte 3 is 00 0 1 0000
theorem test_decode_wr_req :
    decodeSubframe .outbound [0x01, 0x00, 0x0A, 0x10] = .ok (.sdcWrReq 0x0001 0x00A 0, []) := rfl
-- FC4 outbound: byte 3 is 00 1 1 1111
theorem test_decode_out_err :
    decodeSubframe .outbound [0xFF, 0xFF, 0xFF, 0x3F] = .ok (.sdcOutErr 0xFFFF 0xFFF true 0, []) := rfl
-- FC7: byte 3 is 11 0 0 0000
theorem test_decode_rd_resp :
    decodeSubframe .inbound [0x34, 0x12, 0x01, 0xC0] = .ok (.sdcRdResp 0x1234 0x001 3, []) := rfl
-- FC9
theorem test_decode_wr_echo :
    decodeSubframe .inbound [0x55, 0x55, 0x0B, 0x10] = .ok (.sdcWrEcho 0x5555 0x00B 0, []) := rfl
-- FC6: byte 3 is 00 1 0 0000
theorem test_decode_rd_err :
    decodeSubframe .inbound [0x03, 0x00, 0x20, 0x20] = .ok (.sdcRdErr 0x0003 0x020 0, []) := rfl
-- FC5: byte 3 is 00 1 1 0000
theorem test_decode_wr_err :
    decodeSubframe .inbound [0x09, 0x00, 0x0A, 0x30] = .ok (.sdcWrErr 0x0009 0x00A 0, []) := rfl

theorem test_decode_short : decodeSubframe .inbound [0, 0, 0] = .error .tooShort := rfl

/-- The words of the four inbound rows of spec/opcode_table.json. -/
theorem test_table_words :
    decodeTableWord 32 0x00000000 = some (.sdcRdResp 0 0 0) ∧ decodeTableWord 32 0x10000000 = some (.sdcWrEcho 0 0 0) ∧
    decodeTableWord 32 0x20000000 = some (.sdcRdErr 0 0 0) ∧
    decodeTableWord 32 0x30000000 = some (.sdcWrErr 0 0 0) := by decide

theorem test_encode :
    encode (.sdcWrReq 0x0001 0x00A 0) = some (.outbound, [0x01, 0x00, 0x0A, 0x10]) ∧
    encode (.sdcWrErr 0xFFFF 0xFFF 3) = some (.inbound, [0xFF, 0xFF, 0xFF, 0xFF]) ∧ encode .sched = none := by decide

/-- The first step after reset is the CYCLE that receives a table word as its sub-frame. -/
theorem test_first_step :
    after (step (State.reset.withFetchWord 32 0x20000000))
      (fun t => t.result == some .ok && t.pending == [] && t.ctx.rx.map (·.readBytes 0 4) == some [0, 0, 0, 0x20]) = true := by
  decide +kernel

/-! ### Checksum -/

-- CK2, CK7
theorem test_crc_check_value :
    after (exec (.crc16 [0x31, 0x32, 0x33, 0x34, 0x35, 0x36, 0x37, 0x38, 0x39]) fresh)
      (fun t => t.result == some (.checksum 0x4B37)) = true := by decide +kernel
theorem test_crc_zeros : crc16 (List.replicate 24 0) = 0xF77A := by decide +kernel

-- S1: stamping the reset frame; S3: stamping the frame BECHO
theorem test_stamp_reset : after (exec .stamp fresh) (fun t => t.ctx.tx == [(24, 0x7A), (25, 0xF7)]) = true := by
  decide +kernel
theorem test_stamp_becho :
    after (exec .stamp { fresh with ctx := { fresh.ctx with tx := Memory.ofFrame [0x01, 0x00, 0x0A, 0x10] } })
      (fun t => t.ctx.tx.frame == becho) = true := by decide +kernel

-- V3, V5, and V6's undetected corruption
theorem test_validate : validate pd3 = true ∧ validate (pd3.set 7 0x5B) = false := by decide +kernel
theorem test_validate_undetected :
    validate (List.replicate 9 0 ++ [0x01] ++ List.replicate 14 0 ++ [0xBB, 0xF7]) = true := by decide +kernel

/-! ### Codec -/

-- FC3, FC5
theorem test_sdc_enc : encodeSdc ⟨0xFFFF, 0xFFF, true, true, 3⟩ = [0xFF, 0xFF, 0xFF, 0xFF] ∧
    encodeSdc ⟨0x0009, 0x00A, true, true, 0⟩ = [0x09, 0x00, 0x0A, 0x30] := by decide
-- FC6, FC8
theorem test_sdc_dec : decodeSdc [0x03, 0x00, 0x20, 0x20] = ⟨0x0003, 0x020, false, true, 0⟩ ∧
    decodeSdc [0xFF, 0xFF, 0xFF, 0xFF] = ⟨0xFFFF, 0xFFF, true, true, 3⟩ := by decide
-- FC10
theorem test_out_enc :
    outEnc ⟨⟨0, 0, false, false, 0⟩, 0x01, 0x0F, 0x05, 0xA5, 0x1234, 0x8000, 0, 0, 0x0010, 0, 0x0FFF, 0x0800⟩ =
      [0x00, 0x00, 0x00, 0x00, 0x01, 0x0F, 0x05, 0xA5, 0x34, 0x12, 0x00, 0x80, 0x00, 0x00, 0x00, 0x00, 0x10, 0x00, 0x00,
       0x00, 0xFF, 0x0F, 0x00, 0x08, 0x10, 0x4B] := by decide +kernel
-- FC11
theorem test_out_dec :
    outDec becho = ⟨⟨0x0001, 0x00A, true, false, 0⟩, 0, 0, 0, 0, 0, 0, 0, 0, 0, 0, 0, 0⟩ ∧ crcField becho = 0x8C1F := by
  decide +kernel
-- FC12, FC14
theorem test_in_enc :
    inEnc ⟨⟨0xBEEF, 0x002, false, false, 0⟩, 0x03, 0, 0x5A, 1, 2, 3, 0x1234, 0xABCD⟩ = pd3 ∧
    inEnc ⟨⟨0x1234, 0x001, false, false, 3⟩, 0, 0, 0, 0, 0, 0, 0, 0⟩ = frameF 0x34 0x12 0x01 0xC0 0x09 0x69 := by
  decide +kernel
-- FC13
theorem test_in_dec :
    inDec pd3 = ⟨⟨0xBEEF, 0x002, false, false, 0⟩, 0x03, 0, 0x5A, 1, 2, 3, 0x1234, 0xABCD⟩ ∧ crcField pd3 = 0x3B0A := by
  decide +kernel

/-! ### Scheduler -/

-- SC7
theorem test_sched_dispatch :
    after (exec .sched (table [item 0x100 0 1 false false 0 false false, item 0x101 0 0 false false 0 false false,
        item 0x102 0x0042 0 false true 0 false false] 1))
      (fun t => sub t == [0x42, 0x00, 0x02, 0x01] && t.ctx.cursor == 2 &&
        t.ctx.item? 2 == some (item 0x102 0x0042 0 false false 1 false false)) = true := by decide +kernel
-- SC9: the slots not shown hold no item, and the scan does not come to them
theorem test_sched_first_eligible :
    after (exec .sched { fresh with
        ctx := { fresh.ctx with items := [(1, item 0x101 0 1 false false 0 false false)], count := 3, cursor := 1 } })
      (fun t => t.ctx.cursor == 1 && t.ctx.item? 1 == some (item 0x101 0 1 false false 1 false false)) = true := by
  decide +kernel
-- SC3
theorem test_sched_timeout :
    after (exec .sched (table [item 0x00B 0x5555 0 true false 9 false false] 0))
      (fun t => t.ctx.item? 0 == some (item 0x00B 0x5555 0 true false 10 false false) &&
        t.ctx.events == [.diag (.sdcTimeout 0 0x00B)]) = true := by decide +kernel

-- SC13: a read item dispatched; SC8: the scan wraps
theorem test_rd_req :
    after (exec (.sdcRdReq 0x1234 0x001 0) (table [item 0x001 0x1234 1 false false 0 true true] 0))
      (fun t => sub t == [0x34, 0x12, 0x01, 0x00] &&
        t.ctx.item? 0 == some (item 0x001 0x1234 1 false false 1 true true)) = true := by decide +kernel
theorem test_rd_req_wraps :
    after (exec (.sdcRdReq 0 0x100 0) (table [item 0x100 0 1 false false 0 false false,
        item 0x101 0 1 false false 0 false false, item 0x102 0 0 false false 0 false false] 2))
      (fun t => sub t == [0x00, 0x00, 0x00, 0x01] && t.ctx.cursor == 0) = true := by decide +kernel
-- SC12: a write item dispatched, every bit of value and address set
theorem test_wr_req :
    after (exec (.sdcWrReq 0xFFFF 0xFFF 0) (table [item 0xFFF 0xFFFF 0 true true 0 false false] 0))
      (fun t => sub t == [0xFF, 0xFF, 0xFF, 0x1F]) = true := by decide +kernel
-- R79: nothing sends an outbound sub-frame with error 1
theorem test_out_err :
    exec (.sdcOutErr 0xFFFF 0xFFF true 0) (table [item 0xFFF 0xFFFF 0 true true 0 false false] 0) =
      .refused .subframeNotSent := rfl

/-! ### Matcher -/

-- M11 (as M6, reserved 3), M2
theorem test_rd_resp :
    after (exec (.sdcRdResp 0x1234 0x001 3) (table [item 0x001 0 0 false false 2 false false,
        item 0x00A 1 0 true true 0 false false] 0))
      (fun t => t.ctx.item? 0 == some (item 0x001 0x1234 0 false false 0 true false) && t.ctx.cursor == 1) = true := by
  decide +kernel
theorem test_rd_resp_discarded :
    Returns (.sdcRdResp 0x1234 0x002 0) (table [item 0x001 0 0 false false 2 false false] 0) .noValue := rfl
-- M13, M4
theorem test_wr_echo :
    after (exec (.sdcWrEcho 0x0001 0x00A 0) (table [item 0x001 0 0 false false 0 false false,
        item 0x00A 1 0 true false 2 false false] 1))
      (fun t => t.ctx.item? 1 == some (item 0x00A 1 0 true false 0 true false) && t.ctx.cursor == 0) = true := by
  decide +kernel
theorem test_wr_echo_discarded :
    Returns (.sdcWrEcho 0x5554 0x00B 0) (table [item 0x00B 0x5555 0 true false 2 false false] 0) .noValue := rfl
-- M7, M8
theorem test_rd_err :
    after (exec (.sdcRdErr 0x0003 0x020 0) (table [item 0x020 0 0 false false 2 false false] 0))
      (fun t => t.ctx.item? 0 == some (item 0x020 3 0 false false 0 true true) &&
        t.ctx.events == [.diag (.sdcError 0 0x020 0x0003)]) = true := by decide +kernel
theorem test_rd_err_repeated :
    after (exec (.sdcRdErr 0x0003 0x020 0) (table [item 0x020 3 0 false false 1 false true] 0))
      (fun t => t.ctx.item? 0 == some (item 0x020 3 0 false false 0 true true) && t.ctx.events == []) = true := by
  decide +kernel
-- M10
theorem test_wr_err :
    after (exec (.sdcWrErr 0x0009 0x00A 0) (table [item 0x00A 1 0 true false 1 false false] 0))
      (fun t => t.ctx.item? 0 == some (item 0x00A 9 0 true false 0 true true) &&
        t.ctx.events == [.diag (.sdcError 0 0x00A 0x0009)]) = true := by decide +kernel
-- M14, M15
theorem test_match :
    after (exec (.matchSdc (frameF 0x77 0x07 0x20 0x00 0xCE 0xF8)) (table [item 0x020 3 0 false false 1 false true] 0))
      (fun t => t.ctx.item? 0 == some (item 0x020 0x0777 0 false false 0 true false)) = true := by decide +kernel
theorem test_match_zeros :
    after (exec (.matchSdc idle) (table [item 0x000 0 0 false false 0 false false] 0))
      (fun t => t.ctx.item? 0 == some (item 0x000 0 0 false false 0 true false)) = true := by decide +kernel

/-! ### Orchestrator -/

-- Y11
theorem test_cycle_crc_fail :
    after (exec (.cycle (.bytes (badCrc (frameF 0x54 0x55 0x0B 0x10 0x19 0x12))))
        (table [item 0x00B 0x5555 0 true false 9 false false] 0))
      (fun t => t.result == some .crcFail && t.ctx.crcFailCount == 1 &&
        t.ctx.events.length == 3 && t.ctx.events.head? == some (.diag (.sdcTimeout 0 0x00B)) &&
        t.ctx.events.getLast? == some (.diag .crcMismatch)) = true := by decide +kernel
-- Y7: the good frame after two failures
theorem test_cycle_recovers :
    after (exec (.cycle (.bytes idle)) { table [] 0 with ctx := { (table [] 0).ctx with crcFailCount := 2 } })
      (fun t => t.result == some .ok && t.ctx.crcFailCount == 0 && t.ctx.rx == some (Memory.ofFrame idle) &&
        t.ctx.events == [.exchange idle (.bytes idle), .diag (.crcRecovered 2)]) = true := by decide +kernel

/-! ### Host port -/

-- HP2, HP4
theorem test_open_fails :
    after (exec (.hOpen .fail) fresh) (fun t => t.result == some .setupFail && t.ctx.transport == .unopened &&
      t.ctx.events == [.diag .setupFailure]) = true := by decide +kernel
theorem test_open_twice : RefusedWith (.hOpen .ok) (table [] 0) .openNotAllowed := rfl
-- HP5, HP6
theorem test_close_unopened : RefusedWith .hClose fresh .closeNotOpen := rfl
theorem test_close : after (exec .hClose (table [] 0)) (fun t => t.ctx.transport == .closed) = true := by decide +kernel
-- HP7, HP8
theorem test_count_too_large : RefusedWith (.hSetCount 5) fresh .countTooLarge := rfl
theorem test_count_unconfigured :
    RefusedWith (.hSetCount 2) (table [item 0x001 0 1 false false 0 false false] 0) .unconfiguredSlot := rfl
-- HP12, and HP10 before HP11
theorem test_config_slot : RefusedWith (.hConfig 4 ⟨1, 0, 0, 0, 0, 0, 0, 0, 0⟩) fresh .slotOutOfRange := rfl
theorem test_config_address : RefusedWith (.hConfig 3 ⟨0x1000, 0, 0, 0, 0, 0, 5, 0, 0⟩) fresh .addressTooWide := rfl
-- HP13, HP15
theorem test_abandon :
    after (exec (.hWriteItem 0 .busyCycles 0) (table [item 0x001 0 1 false false 7 false false] 0))
      (fun t => t.ctx.item? 0 == some (item 0x001 0 1 false false 0 false false)) = true := by decide +kernel
theorem test_write_not_a_bit :
    RefusedWith (.hWriteItem 0 .requested 2) (table [item 0x001 0 1 false false 0 false false] 0) .outOfRange := rfl
-- HP16
theorem test_read_item_unconfigured : RefusedWith (.hReadItem 2) fresh .unconfiguredSlot := rfl
-- HP1
theorem test_read_ctx : Returns .hReadCtx fresh (.context ⟨0, 0, 0, .unopened, []⟩) := rfl
-- HP17, HP19
theorem test_write_tx_protected : RefusedWith (.hWriteTx 3 0xFF) fresh .txRegionProtected := rfl
theorem test_write_tx : after (exec (.hWriteTx 4 0x01) fresh) (fun t => t.ctx.tx == [(4, 0x01)]) = true := by
  decide +kernel
-- Z2, HP21
theorem test_read_tx : Returns (.hReadTx 24) fresh (.byte 0) := rfl
theorem test_read_tx_range : RefusedWith (.hReadTx 26) fresh .outOfRange := rfl
-- HP20, HP23
theorem test_read_rx_empty : RefusedWith (.hReadRx 0) fresh .rxEmpty := rfl
theorem test_read_rx :
    after (exec (.hReadRx 7) { fresh with ctx := { fresh.ctx with rx := some (Memory.ofFrame pd3) } })
      (fun t => t.result == some (.byte 0x5A)) = true := by decide +kernel
-- Z1
theorem test_reset : exec .reset { table [item 0x001 0 1 false false 7 false false] 0 with result := none } =
    .next { fresh with result := some .noValue } := rfl

/-! ### The notation of 30_encoding.md R83 and R84 -/

/-- P1's first H.CONFIG line, its braces by their codes. -/
theorem test_line_config :
    readLine ("H.CONFIG 0 ".toList ++ [Char.ofNat 123] ++
        "addr=0x001 val=0x0000 factor=1 fctr=0 write=0 req=0 busy=0 done=0 err=0".toList ++ [Char.ofNat 125] ++
        "   ; item A".toList) = .ok [.hConfig 0 ⟨1, 0, 1, 0, 0, 0, 0, 0, 0⟩] := by decide +kernel

theorem test_lines :
    readProgram "RESET\nH.OPEN ok\n; comment\nARM 0\nH.WRITETX16 8 0x1234\nCRC16 31 fF\n".toList =
      .ok [.reset, .hOpen .ok, .hWriteItem 0 .completed 0, .hWriteItem 0 .requested 1, .hWriteTx 8 0x34,
        .hWriteTx 9 0x12, .crc16 [0x31, 0xFF]] := by decide +kernel

theorem test_line_errors :
    readLine "H.OPEN maybe".toList = .error .badOperand ∧ readLine "SCHED".toList = .error .unknownOperation := by
  decide +kernel

/-- HP23: the wider reads are the bytes of rx combined (30_encoding.md R84). -/
theorem test_read_rx_values :
    rxValue (Memory.ofFrame pd3) 8 4 = 1 ∧ rxValue (Memory.ofFrame pd3) 22 2 = 0xABCD := by decide +kernel

/-- INFRAME and BADCRC (95_test_vectors.md, frames IDLE and IDLEBAD, and P6c's frame). -/
theorem test_frames :
    badCrc idle = idleBad ∧ inFrame 0 0x001 false false (List.replicate 20 0) = frameF 0 0 1 0 0xAA 0x3B := by
  decide +kernel

/-! ### Witnesses: for each statement with hypotheses, a state and operands that meet them -/

/-- Item A and item B of 95_test_vectors.md program P1. -/
def itemA : Item := item 0x001 0 1 false false 0 false false
def itemB : Item := item 0x00A 1 0 true true 0 false false

/-- A machine in the middle of a run: two items, a received frame, an exchange on record, two failures counted. -/
def running (a : Item) (cursor : Nat) : State where
  params := params
  ctx := { (table [a, itemB] cursor).ctx with
    tx := Memory.ofFrame becho
    rx := some (Memory.ofFrame pd3)
    crcFailCount := 2
    events := [.exchange becho .fail] }
  pending := []
  result := some .crcFail

/-- The same with A in flight. -/
def busyA (n : Nat) : Item := { itemA with busyCycles := n }

theorem running_items {a it : Item} {cursor k : Nat} (h : (running a cursor).ctx.item? k = some it) :
    (k = 0 ∧ it = a) ∨ (k = 1 ∧ it = itemB) := by
  have h : (k, it) ∈ [(0, a), (1, itemB)] := cellGet_mem h
  simpa using h

theorem running_inv {a : Item} {cursor : Nat} (hc : cursor < 4) (ha : a.busyCycles ≤ 255)
    (hs : 0 < a.busyCycles → cursor = 0) : (running a cursor).Inv where
  params := ⟨by show 1 ≤ 4; decide, by show 10 ≤ 255; decide, by show 1 ≤ 255; decide⟩
  stored := by
    refine ⟨Memory.wf_ofFrame becho, ?_, by show ([0, 1] : List Nat).Pairwise (· < ·); decide⟩
    intro m hm
    cases hm
    exact Memory.wf_ofFrame _
  inRange := by
    refine ⟨fun k it hk => ?_, by show 2 ≤ 4; decide, hc, by show 2 ≤ 255; decide⟩
    rcases running_items hk with ⟨rfl, rfl⟩ | ⟨rfl, rfl⟩
    · exact ⟨by show 0 < 4; decide, ha⟩
    · exact ⟨by show 1 < 4; decide, by show 0 ≤ 255; decide⟩
  configured := by
    intro k hk
    have : k < 2 := hk
    interval_cases k <;> rfl
  serial := by
    intro k it hk hb
    rcases running_items hk with ⟨rfl, rfl⟩ | ⟨rfl, rfl⟩
    · exact (hs hb).symm
    · exact absurd hb (by decide)
  outboundClean := by show (Memory.read (Memory.ofFrame becho) 3).extractLsb' 5 3 = 0#3; decide +kernel
  historyOk := by
    intro sent answer h
    have : Event.exchange sent answer ∈ [Event.exchange becho .fail] := h
    simp only [List.mem_singleton, Event.exchange.injEq] at this
    obtain ⟨rfl, rfl⟩ := this
    exact ⟨⟨by decide, by decide +kernel, by decide⟩, rfl⟩
  rxValidated := by
    intro m hm
    cases hm
    show validate (Memory.ofFrame pd3).frame = true
    decide +kernel

theorem wellformed_tx (a : Item) (cursor : Nat) : (running a cursor).ctx.tx.wf := Memory.wf_ofFrame _

theorem configured_running (a : Item) (cursor : Nat) : (running a cursor).ctx.Configured := by
  intro k hk
  have : k < 2 := hk
  interval_cases k <;> rfl

/-- A's slot at the cursor, not in flight. -/
theorem scan_running : (running itemA 0).CanScan := ⟨rfl, by decide, itemA, rfl, rfl⟩

theorem first_running : FirstEligible (running itemA 0).ctx 0 itemA :=
  ⟨0, by decide, rfl, rfl, .inl (by decide), fun e h => absurd h (by omega)⟩

/-- The cursor at B, B served before A: the scan starts at the cursor. -/
theorem scan_running_b : (running itemA 1).CanScan := ⟨rfl, by decide, itemB, rfl, rfl⟩

theorem first_running_b : FirstEligible (running itemA 1).ctx 1 itemB :=
  ⟨0, by decide, rfl, rfl, .inr rfl, fun e h => absurd h (by omega)⟩

/-- A not eligible: the scan goes on from A to B. -/
def idleA : Item := { itemA with factor := 0 }

theorem scan_running_skip : (running idleA 0).CanScan := ⟨rfl, by decide, idleA, rfl, rfl⟩

theorem first_running_skip : FirstEligible (running idleA 0).ctx 1 itemB := by
  refine ⟨1, by decide, rfl, rfl, .inr rfl, fun e h => ?_⟩
  obtain rfl : e = 0 := by omega
  exact ⟨idleA, rfl, rfl, rfl⟩

/-- A table of one item that is not eligible. -/
theorem none_eligible : NoneEligible (table [idleA] 0).ctx := by
  intro k hk
  obtain rfl : k = 0 := by have : k < 1 := hk; omega
  exact ⟨idleA, rfl, rfl, rfl⟩

theorem test_witness_encoded : encode (.sdcWrReq 0xFFFF 0xFFF 3) = some (.outbound, [0xFF, 0xFF, 0xFF, 0xDF]) := by decide

theorem test_witness_pattern : tableRow (.sdcWrErr 0 0 0) = some (.inbound, 0x30000000#32, 0x30000000#32) ∧
    (0xF00A0009#32 : Word32) &&& 0x30000000#32 = 0x30000000#32 ∧
    encode (.sdcWrErr 9 0x00A 3) = some (.inbound, [0x09, 0x00, 0x0A, 0xF0]) := by decide

/-- SdcCodecLayout, FrameDecodersReadTheLayout, FrameEncodersWriteTheLayout, ChecksumFunction, ValidateEqualsResidueZero. -/
theorem test_witness_codec : (running itemA 0).ctx.marked = false ∧ [0x34#8, 0x12, 0x01, 0xC0].length = sdcLen ∧
    pd3.length = nFrame ∧ validate pd3 = true ∧ idleBad.length = nFrame ∧ validate idleBad = false := by decide +kernel

theorem test_witness_stamp : (running itemA 0).ctx.marked = false ∧ (running itemA 0).ctx.tx.wf := ⟨rfl, wellformed_tx _ _⟩

/-- The first and the last bit of a frame, and the last byte a checksum covers. -/
theorem test_witness_bit_flip : pd3.length = nFrame ∧ validate pd3 = true ∧ (0 < nFrame ∧ 0 < 8) ∧ (25 < nFrame ∧ 7 < 8) ∧
    23 < 24 := by decide +kernel

theorem test_witness_sched_idle : ((table [] 0).ctx.marked = false ∧ (table [] 0).ctx.count = 0) ∧
    (table [idleA] 0).CanScan ∧ NoneEligible (table [idleA] 0).ctx :=
  ⟨⟨rfl, rfl⟩, ⟨rfl, by decide, idleA, rfl, rfl⟩, none_eligible⟩

/-- The least busy count, the one before the timeout, and the saturated one. -/
theorem test_witness_busy (n : Nat) (h : n = 1 ∨ n = 9 ∨ n = 255) : (running (busyA n) 0).ctx.marked = false ∧
    (running (busyA n) 0).ctx.cursor < (running (busyA n) 0).ctx.count ∧
    (running (busyA n) 0).ctx.item? 0 = some (busyA n) ∧ 0 < (busyA n).busyCycles :=
  ⟨rfl, by show 0 < 2; decide, rfl, by show 0 < n; omega⟩

/-- SchedDispatchesFirstEligible and DispatchSendsTheRequest: a read item at the cursor, a write item at the cursor, and a
slot passed over. -/
theorem test_witness_dispatch : ((running itemA 0).CanScan ∧ (running itemA 0).ctx.tx.wf ∧
      FirstEligible (running itemA 0).ctx 0 itemA ∧ itemA.isWrite = false) ∧
    ((running itemA 1).CanScan ∧ FirstEligible (running itemA 1).ctx 1 itemB ∧ itemB.isWrite = true) ∧
    (running idleA 0).CanScan ∧ FirstEligible (running idleA 0).ctx 1 itemB :=
  ⟨⟨scan_running, wellformed_tx _ _, first_running, rfl⟩, ⟨scan_running_b, first_running_b, rfl⟩, scan_running_skip,
    first_running_skip⟩

/-- CursorOutOfRangeFaults and MatchNothingOutstanding: the cursor at count. -/
theorem test_witness_cursor_out : (table [itemA] 1).ctx.marked = false ∧ 0 < (table [itemA] 1).ctx.count ∧
    (table [itemA] 1).ctx.count ≤ (table [itemA] 1).ctx.cursor ∧ (table [itemA] 1).ctx.transport = .opened ∧
    (table [] 0).ctx.count = 0 := by decide

/-- RetainedSubframeIsResent, its three cases; and SDC.OUT.ERR where tx holds it. -/
theorem test_witness_retained :
    ((table [] 0).ctx.count = 0 ∧ encode (.sdcRdReq 0 0 0) = some (.outbound, [0, 0, 0, 0])) ∧
    ((running (busyA 1) 0).ctx.item? 0 = some (busyA 1) ∧ encode (.sdcWrReq 1 0x00A 0) = some (.outbound,
      [(running (busyA 1) 0).ctx.txByte 0, (running (busyA 1) 0).ctx.txByte 1, (running (busyA 1) 0).ctx.txByte 2,
        (running (busyA 1) 0).ctx.txByte 3])) ∧
    NoneEligible (table [idleA] 0).ctx ∧
    encode (.sdcOutErr 0 0 false 0) = some (.outbound, [(0 : Byte), 0, 0, (Memory.ofFrame [0, 0, 0, 0x20]).read 3]) :=
  ⟨by decide, by decide +kernel, none_eligible, by decide +kernel⟩

theorem test_witness_out_err : (running itemA 0).ctx.marked = false ∧ (running itemA 0).ctx.Configured ∧
    (running itemA 0).ctx.CursorInTable ∧ (running itemA 0).ctx.tx.wf ∧
    ((running itemA 0).ctx.txByte 3).getLsbD 5 = false :=
  ⟨rfl, configured_running _ _, .inr (by decide), wellformed_tx _ _, by decide +kernel⟩

/-- MatchDiscards: another address, another write bit, another echoed value; and a frame none of these discards. -/
theorem test_witness_discards : (running itemA 1).ctx.marked = false ∧
    (running itemA 1).ctx.cursor < (running itemA 1).ctx.count ∧ (running itemA 1).ctx.item? 1 = some itemB ∧
    Discards itemB (decodeSdc [0x01, 0x00, 0x0B, 0x10]) ∧ Discards itemB (decodeSdc [0x01, 0x00, 0x0A, 0x00]) ∧
    Discards itemB (decodeSdc [0x02, 0x00, 0x0A, 0x10]) ∧ ¬ Discards itemB (decodeSdc (becho.take 4)) ∧
    becho.length = nFrame := by
  refine ⟨rfl, by decide, rfl, .inl (by decide), .inr (.inl (by decide)), .inr (.inr (by decide)), ?_, by decide⟩
  unfold Discards
  decide

/-- MatchAccepts: an echo with its reserved bits set, and an error, which needs no equal value. -/
theorem test_witness_accepts : (running itemA 1).ctx.item? 1 = some itemB ∧
    ¬ Discards itemB (decodeSdc [0x01, 0x00, 0x0A, 0xD0]) ∧ ¬ Discards itemB (decodeSdc [0x09, 0x00, 0x0A, 0x30]) := by
  refine ⟨rfl, ?_, ?_⟩ <;> unfold Discards <;> decide

theorem test_witness_inbound_kind : encode (.sdcWrErr 9 0x00A 0) = some (.inbound, [0x09, 0x00, 0x0A, 0x30]) ∧
    (List.replicate 22 (0 : Byte)).length = 22 ∧ (running itemA 1).ctx.item? 1 = some itemB ∧
    ¬ Discards itemB ⟨9, 0x00A, true, true, 0⟩ := by
  refine ⟨by decide, rfl, rfl, ?_⟩
  unfold Discards
  decide

/-- CompletionTakesTheInboundValue and CycleEventOrder. -/
theorem test_witness_completion : ∃ t it', a1234.length = nFrame ∧
    exec (.cycle (.bytes a1234)) (running itemA 0) = .next t ∧ (running itemA 0).ctx.item? 0 = some itemA ∧
    t.ctx.item? 0 = some it' ∧ itemA.completed = false ∧ it'.completed = true :=
  ⟨nextOf (exec (.cycle (.bytes a1234)) (running itemA 0)), item 0x001 0x1234 1 false false 0 true false, by decide,
    next_of_after (by decide +kernel), rfl, by decide +kernel, rfl, rfl⟩

theorem test_witness_not_ready : fresh.ctx.marked = false ∧ fresh.ctx.transport ≠ .opened ∧
    ({ fresh.ctx with transport := .closed } : Context).transport ≠ .opened := by decide

/-- The state after SCHED and STAMP of a CYCLE. -/
def fronted : State := nextOf (exec .stamp (nextOf (exec .sched (running itemA 0))))

/-- The state that MATCH sees in a CYCLE answered by PD3, as 44_orchestrator.md R145 says it. -/
def committed : State :=
  { fronted with
    ctx := { fronted.ctx with
      events := fronted.ctx.events ++ [.exchange fronted.ctx.tx.frame (.bytes pd3)] ++
        (if 0 < fronted.ctx.crcFailCount then [.diag (.crcRecovered fronted.ctx.crcFailCount)] else [])
      crcFailCount := 0
      rx := some (Memory.ofFrame pd3) } }

/-- CycleTransportFailure, CycleChecksumFailure and CycleSuccess: the front part of a cycle runs, and so does MATCH. -/
theorem test_witness_cycle : (running itemA 0).ctx.marked = false ∧ (running itemA 0).ctx.transport = .opened ∧
    CycleFront (running itemA 0) fronted ∧ pd3.length = nFrame ∧ validate pd3 = true ∧ idleBad.length = nFrame ∧
    validate idleBad = false ∧ exec (.matchSdc pd3) committed = .next (nextOf (exec (.matchSdc pd3) committed)) :=
  ⟨rfl, rfl, ⟨nextOf (exec .sched (running itemA 0)), next_of_after (by decide +kernel), by decide +kernel,
    next_of_after (by decide +kernel)⟩, by decide, by decide +kernel, by decide, by decide +kernel,
    next_of_after (by decide +kernel)⟩

/-- CycleRunsTheSubframesItCarries: the frame sent decodes, and so does the one received, whose kind completes. -/
theorem test_witness_carried : ∃ i rest w, (running itemA 0).ctx.tx.wf ∧
    exec .sched (running itemA 0) = .next (nextOf (exec .sched (running itemA 0))) ∧
    (nextOf (exec .sched (running itemA 0))).ctx.marked = false ∧
    exec .stamp (nextOf (exec .sched (running itemA 0))) = .next fronted ∧ validate pd3 = true ∧
    decodeSubframe .inbound pd3 = .ok (i, rest) ∧ exec i (receivedState fronted pd3) = .next w :=
  ⟨.sdcRdResp 0xBEEF 0x002 0, pd3.drop 4, nextOf (exec (.sdcRdResp 0xBEEF 0x002 0) (receivedState fronted pd3)),
    wellformed_tx _ _, next_of_after (by decide +kernel), by decide +kernel, next_of_after (by decide +kernel),
    by decide +kernel, rfl, next_of_after (by decide +kernel)⟩

/-- CycleCompletesWithOneResult and InvariantNeverStops. -/
theorem test_witness_inv : (running itemA 0).Inv ∧ (running (busyA 255) 0).Inv ∧ (running itemA 3).Inv ∧
    (running itemA 0).ctx.marked = false ∧ (Answer.bytes pd3).wellFormed = true ∧ Answer.fail.wellFormed = true :=
  ⟨running_inv (by decide) (by decide) (by decide), running_inv (by decide) (by decide) (fun _ => rfl),
    running_inv (by decide) (by decide) (by decide), rfl, rfl, rfl⟩

theorem test_witness_same_cycle : (running itemA 0).CanScan ∧ (running itemA 0).ctx.transport = .opened ∧
    FirstEligible (running itemA 0).ctx 0 itemA ∧
    (encodeSdc ⟨0x1234, 0x001, false, false, 0⟩ ++ a1234.drop 4).length = nFrame ∧
    validate (encodeSdc ⟨0x1234, 0x001, false, false, 0⟩ ++ a1234.drop 4) = true ∧
    ¬ Discards itemA ⟨0x1234, 0x001, false, false, 0⟩ :=
  ⟨scan_running, rfl, first_running, by decide, by decide +kernel, by unfold Discards; decide⟩

/-- No cycle, the one before the timeout, and the one that times out. -/
theorem test_witness_stuck (n : Nat) (h : n = 0 ∨ n = 8 ∨ n = 9) :
    let s : State := { running (busyA 1) 0 with pending := List.replicate n (.operation .host (.cycle .fail)) }
    s.ctx.marked = false ∧ s.ctx.cursor < s.ctx.count ∧ s.ctx.transport = .opened ∧ s.ctx.tx.wf ∧
    busyTimeout ≤ s.params.busySat ∧ s.ctx.item? s.ctx.cursor = some (busyA 1) ∧ (busyA 1).busyCycles = 1 ∧
    s.pending = List.replicate n (.operation .host (.cycle .fail)) ∧ n ≤ 9 :=
  ⟨rfl, by show 0 < 2; decide, rfl, wellformed_tx (busyA 1) 0, by show 10 ≤ 255; decide, rfl, rfl, rfl, by omega⟩

theorem test_witness_closer : (running itemA 0).CanScan ∧ FirstEligible (running itemA 0).ctx 0 itemA ∧
    1 < (running itemA 0).ctx.count ∧ (running itemA 0).ctx.item? 1 = some itemB ∧ itemB.requested = true ∧ 0 ≠ 1 ∧
    a1234.length = nFrame ∧ ¬ Discards itemA (decodeSdc (a1234.take 4)) :=
  ⟨scan_running, first_running, by decide, rfl, rfl, by decide, by decide, by unfold Discards; decide⟩

/-- A is dispatched and accepted, then B: count accepted dispatches, each slot among them. -/
theorem test_witness_dispatches : ∃ w, AcceptedDispatches (running itemA 0) [0, 1] w ∧
    1 < (running itemA 0).ctx.count ∧ (running itemA 0).ctx.count ≤ [0, 1].length ∧
    (running itemA 0).ctx.item? 1 = some itemB ∧ itemB.requested = true := by
  let t := nextOf (exec .sched (running itemA 0))
  let u := nextOf (exec (.matchSdc a1234) t)
  let v := nextOf (exec .sched u)
  have hb : u.ctx.item? u.ctx.cursor = some itemB ∧ u.ctx.cursor = 1 ∧ u.ctx.count = 2 ∧ u.ctx.marked = false := by
    decide +kernel
  obtain ⟨hitem, hcur, hcount, hm⟩ := hb
  refine ⟨_, .cons scan_running first_running (next_of_after (by decide +kernel)) (f := a1234) (by decide)
    (by unfold Discards; decide) (next_of_after (by decide +kernel))
    (.cons (s := u) (t := v) (j := 1) (it := itemB) (f := becho) ?_ ?_ (next_of_after (by decide +kernel)) (by decide)
      (by unfold Discards; decide) (next_of_after (by decide +kernel)) (.nil _)), by decide, by decide, rfl, rfl⟩
  · exact ⟨hm, by rw [hcur, hcount]; decide, itemB, hitem, rfl⟩
  · exact ⟨0, by rw [hcount]; decide, by rw [hcur, hcount], by rw [← hcur]; exact hitem, .inr rfl,
      fun e h => absurd h (by omega)⟩

theorem test_witness_open_close : fresh.ctx.marked = false ∧ fresh.ctx.transport = .unopened ∧
    (table [] 0).ctx.transport = .opened ∧ (table [] 0).ctx.transport ≠ .unopened ∧
    fresh.ctx.transport ≠ .opened := by decide

/-- One past the capacity, a slot without an item, and all of the configured slots. -/
theorem test_witness_count : params.sdcCapacity < 5 ∧ (4 ≤ params.sdcCapacity ∧ (running itemA 0).ctx.item? 3 = none) ∧
    2 ≤ params.sdcCapacity ∧ ∀ k, k < 2 → (running itemA 0).ctx.item? k ≠ none := by
  refine ⟨by decide, by decide, by decide, fun k hk => ?_⟩
  interval_cases k <;> decide

/-- H.CONFIG's clauses, each at the first value beyond its bound, and a record at every bound. -/
theorem test_witness_config : params.sdcCapacity ≤ 4 ∧ 3 < params.sdcCapacity ∧ 0xFFF < 0x1000 ∧
    ((0xFFF : Nat) ≤ 0xFFF ∧ 0xFFFF < 0x10000) ∧ RecordFits ⟨0xFFF, 0xFFFF, 7, 7, 1, 1, 0, 1, 1⟩ ∧
    ¬ RecordFits ⟨0xFFF, 0xFFFF, 7, 7, 2, 1, 0, 1, 1⟩ := by
  refine ⟨by decide, by decide, by decide, by decide, by simp [RecordFits], by simp [RecordFits]⟩

/-- H.WRITEITEM's clauses at the bounds of the fields. -/
theorem test_witness_write_item : params.sdcCapacity ≤ 4 ∧ (running itemA 0).ctx.item? 2 = none ∧
    (1 < params.sdcCapacity ∧ (running itemA 0).ctx.item? 1 = some itemB) ∧
    (fieldBound .address = some 0xFFF ∧ 0xFFF < 0x1000) ∧ (fieldBound .completed = some 1 ∧ 1 < 2) ∧
    fieldBound .factor = none := by decide

theorem test_witness_reads : (running itemA 0).ctx.marked = false ∧ (running itemA 0).ctx.item? 1 = some itemB ∧
    (running itemA 0).ctx.item? 2 = none ∧ 25 < nFrame ∧ nFrame ≤ 26 ∧
    (running itemA 0).ctx.rx = some (Memory.ofFrame pd3) ∧ fresh.ctx.rx = none :=
  ⟨rfl, rfl, rfl, by decide, by decide, rfl, rfl⟩

theorem test_witness_write_tx : fresh.ctx.marked = false ∧ fresh.ctx.tx.wf ∧ (3 < 4 ∨ 23 < 3) ∧ (24 < 4 ∨ 23 < 24) ∧
    (4 ≤ 4 ∧ 4 ≤ 23 ∧ 0xFF < 0x100) ∧ (4 ≤ 23 ∧ 23 ≤ 23 ∧ 0xFF ≤ 0xFF) :=
  ⟨rfl, Memory.wf_nil, by decide, by decide, by decide, by decide⟩

/-- A context that carries a mark, and an operation that sets one. -/
theorem test_witness_refusal : ∃ t, (nextOf (exec .hClose fresh)).ctx.marked = true ∧ fresh.ctx.marked = false ∧
    exec .hClose fresh = .next t ∧ t.ctx.refused = some .closeNotOpen ∧ Instr.hClose ≠ .reset :=
  ⟨_, rfl, rfl, rfl, rfl, by decide⟩

theorem test_witness_pseudo : (running itemA 0).ctx.marked = false ∧ 1 < params.sdcCapacity ∧
    (running itemA 0).ctx.item? 1 = some itemB ∧ (running itemA 0).ctx.tx.wf ∧ (running itemA 0).pending = [] :=
  ⟨rfl, by decide, rfl, wellformed_tx _ _, rfl⟩

/-- TransportLife: an operation that completes, and a CYCLE that changes its context. -/
theorem test_witness_transport : exec .hClose (running itemA 0) = .next (nextOf (exec .hClose (running itemA 0))) ∧
    after (exec (.cycle .fail) (running itemA 0)) (fun t => t.ctx != (running itemA 0).ctx) = true :=
  ⟨rfl, by decide +kernel⟩

theorem test_witness_shrink : (running itemA 1).ctx.marked = false ∧ (running itemA 1).ctx.transport = .opened ∧ 0 < 1 ∧
    1 ≤ (running itemA 1).ctx.cursor ∧ 1 ≤ params.sdcCapacity ∧ ∀ k, k < 1 → (running itemA 1).ctx.item? k ≠ none := by
  refine ⟨rfl, rfl, by decide, by decide, by decide, fun k hk => ?_⟩
  interval_cases k
  decide

/-- StepKeepsTheInvariant: a step from a state with the invariant. -/
theorem test_witness_step : ∃ t, ({ running itemA 0 with pending := [.operation .host (.cycle .fail)] } : State).Inv ∧
    step { running itemA 0 with pending := [.operation .host (.cycle .fail)] } = .next t :=
  ⟨nextOf (step { running itemA 0 with pending := [.operation .host (.cycle .fail)] }),
    running_inv (a := itemA) (cursor := 0) (by decide) (by decide) (by decide), next_of_after (by decide +kernel)⟩

/-- A run from RESET that leaves a slot busy and an exchange on record: one configured read item, one failed CYCLE. -/
def firstRun : List Request :=
  [.operation .host (.hConfig 0 ⟨1, 0, 1, 0, 0, 0, 0, 0, 0⟩), .operation .host (.hSetCount 1),
    .operation .host (.hOpen .ok), .operation .host (.cycle .fail)]

theorem test_witness_run : ∃ t it, core.run 4 { State.reset with pending := firstRun } = .next t ∧
    t.ctx.item? 0 = some it ∧ 0 < it.busyCycles ∧
    Event.exchange (frameF 0x00 0x00 0x01 0x00 0xAA 0x3B) .fail ∈ t.ctx.events := by
  refine ⟨nextOf (core.run 4 { State.reset with pending := firstRun }), { itemA with busyCycles := 1 },
    next_of_after (by decide +kernel), by decide +kernel, by decide, by decide +kernel⟩

/-- EventsAreAppendOnly, EngineItemAccess, RatesInfluenceNothing, CrcFailCountOnlyThrottles: a CYCLE that completes. -/
theorem test_witness_completes : ∃ t, exec (.cycle (.bytes idleBad)) (running itemA 0) = .next t ∧
    MovesCursor (.cycle (.bytes idleBad)) ∧ (running itemA 0).ctx.item? 2 = none ∧
    (running itemA 0).ctx.item? 0 = some itemA :=
  ⟨nextOf (exec (.cycle (.bytes idleBad)) (running itemA 0)), next_of_after (by decide +kernel),
    .inr (.inr (.inl ⟨_, rfl⟩)), rfl, rfl⟩

/-- ScalarFieldWriters: each named field is changed by some operation. -/
theorem test_witness_writers :
    after (exec (.hSetCount 1) (running itemA 0)) (fun t => t.ctx.count != 2) = true ∧
    after (exec (.sdcRdResp 0 0x001 0) (running itemA 0)) (fun t => t.ctx.cursor != 0) = true ∧
    after (exec (.cycle (.bytes idleBad)) (running itemA 0)) (fun t => t.ctx.crcFailCount != 2) = true ∧
    after (exec .sched (running itemA 2)) (fun t => t.ctx.fault != none) = true := by decide +kernel

/-- TxRegionsHaveTheirWriters: bytes 0 and 3, 4 and 23, 24 and 25 each change. -/
theorem test_witness_tx_regions : (running itemA 0).ctx.tx.wf ∧
    after (exec .sched (running itemA 0)) (fun t => t.ctx.txByte 0 != (running itemA 0).ctx.txByte 0 &&
      t.ctx.txByte 3 != (running itemA 0).ctx.txByte 3) = true ∧
    after (exec (.hWriteTx 4 0xFF) (running itemA 0)) (fun t => t.ctx.txByte 4 != 0) = true ∧
    after (exec (.hWriteTx 23 0xFF) (running itemA 0)) (fun t => t.ctx.txByte 23 != 0) = true ∧
    after (exec .stamp fresh) (fun t => t.ctx.txByte 24 != 0 && t.ctx.txByte 25 != 0) = true :=
  ⟨wellformed_tx _ _, by decide +kernel, by decide +kernel, by decide +kernel, by decide +kernel⟩

theorem test_witness_rx : ∃ t, (Instr.cycle (.bytes idle)).wellFormed = true ∧
    exec (.cycle (.bytes idle)) (running itemA 0) = .next t ∧ t.ctx.rx ≠ (running itemA 0).ctx.rx ∧ t.result = some .ok :=
  ⟨nextOf (exec (.cycle (.bytes idle)) (running itemA 0)), rfl, next_of_after (by decide +kernel), by decide +kernel,
    by decide +kernel⟩

/-- ReadsArePureAndWritesIdempotent: a read and each kind of write, unmarked afterwards, from canonical storage. -/
theorem test_witness_idempotent : (running itemA 0).ctx.Stored ∧
    after (exec (.hReadItem 1) (running itemA 0)) (fun t => !t.ctx.marked) = true ∧
    after (exec (.hSetCount 1) (running itemA 0)) (fun t => !t.ctx.marked) = true ∧
    after (exec (.hConfig 3 ⟨1, 0, 1, 0, 0, 0, 0, 0, 0⟩) (running itemA 0)) (fun t => !t.ctx.marked) = true ∧
    after (exec (.hWriteItem 1 .requested 0) (running itemA 0)) (fun t => !t.ctx.marked) = true ∧
    after (exec (.hWriteTx 4 0xFF) (running itemA 0)) (fun t => !t.ctx.marked) = true :=
  ⟨Context.Inv.stored (running_inv (by decide) (by decide) (by decide)), by decide +kernel, by decide +kernel, by decide +kernel,
    by decide +kernel, by decide +kernel⟩

/-- Two instances, each with its own requests, stepped in turn; the rules hold of each, so that neither runs a bare SCHED
(30_encoding.md R77) or takes an answer of another length (60_exceptions.md R182, R183). -/
theorem test_instances :
    (match runAt [0, 1] #v[{ running itemA 0 with pending := [.operation .host .hClose] },
        { fresh with pending := [.operation .host (.hOpen .ok)] }] with
      | .next ms => ms[0].ctx.transport == .closed && ms[1].ctx.transport == .opened && ms[1].ctx.items == []
      | .fault _ => false
      | .refused _ => false) = true := by decide +kernel
theorem test_instances_refuse :
    stepAt 1 #v[fresh, { running itemA 0 with pending := [.operation .engine .sched] }] = .refused .wrongPort ∧
    stepAt 1 #v[fresh, { running itemA 0 with pending := [.operation .host (.cycle (.bytes [0]))] }] = .refused .illFormed :=
  ⟨rfl, rfl⟩

theorem test_witness_memory : (Memory.ofFrame pd3).wf ∧ Memory.wf ((Memory.ofFrame pd3).write 7 0x5A) ∧
    ∀ o, (Memory.ofFrame pd3).read o = ((Memory.ofFrame pd3).write 7 0x5A).read o := by
  refine ⟨Memory.wf_ofFrame _, Memory.wf_write (Memory.wf_ofFrame _) (by decide) _, fun o => ?_⟩
  rw [Memory.read_write (Memory.wf_ofFrame _)]
  split
  · next h => subst h; decide +kernel
  · rfl

/-- StepRunsTheRequestedOperation: a well-formed operation on each port, and two that run inside CYCLE. -/
theorem test_witness_request : (Instr.cycle (.bytes pd3)).wellFormed = true ∧
    portOf (.cycle (.bytes pd3)) = some .host ∧ Instr.reset.wellFormed = true ∧ portOf .reset = some .engine ∧
    RunsInsideCycle .sched ∧ RunsInsideCycle (.sdcWrErr 9 0x00A 0) ∧ fresh.pending = [] :=
  ⟨by decide, rfl, rfl, rfl, .inl rfl, .inr (.inr (.inr (.inr rfl))), rfl⟩

end Sys2Proof.Tests
end

section
/-!
PROOFS of 10_state.md: the invariant. One rule per operation on a context says that the operation keeps the invariant; the
engine steps are composed of them, every operation's effect of the engine steps, and a step runs one operation.
-/

namespace Sys2Proof.Machine

/-! ### The parts of the invariant by name -/

theorem Context.InRange.slot {p : Params} {c : Context} (h : c.InRange p) {k : Nat} {it : Item}
    (hit : c.item? k = some it) : k < p.sdcCapacity ∧ it.busyCycles ≤ p.busySat := h.1 k it hit

theorem Context.InRange.count_le {p : Params} {c : Context} (h : c.InRange p) : c.count ≤ p.sdcCapacity := h.2.1

theorem Context.InRange.cursor_lt {p : Params} {c : Context} (h : c.InRange p) : c.cursor < p.sdcCapacity := h.2.2.1

theorem Context.InRange.crcFailCount_le {p : Params} {c : Context} (h : c.InRange p) : c.crcFailCount ≤ p.crcFailSat :=
  h.2.2.2

theorem Context.Inv.tx_wf {p : Params} {c : Context} (h : c.Inv p) : c.tx.wf := h.stored.1

/-! ### The invariant under each operation on a context -/

/-- R46: a new context has the invariant whatever its parameters are. -/
theorem Context.reset_inv {p : Params} (hp : p.Wf) : Context.reset.Inv p where
  params := hp
  stored := Context.reset_stored
  inRange := ⟨nofun, Nat.zero_le _, hp.1, Nat.zero_le _⟩
  configured := nofun
  serial := nofun
  outboundClean := rfl
  historyOk := nofun
  rxValidated := nofun

section KeepsInv

variable {p : Params} {c : Context} (h : c.Inv p)
include h

/-- A slot of the table takes any item whose busy count is in range, and is 0 outside the cursor's slot. -/
theorem Context.Inv.putItem {k : Nat} {it : Item} (hk : k < p.sdcCapacity) (hb : it.busyCycles ≤ p.busySat)
    (hs : 0 < it.busyCycles → k = c.cursor) : (c.putItem k it).Inv p := by
  obtain ⟨hp, ⟨htx, hrx, hitems⟩, ⟨hslots, hrest⟩, hcfg, hserial, hclean, hhist, hval⟩ := h
  refine ⟨hp, ⟨htx, hrx, rising_putItem hitems k it⟩, ⟨fun j jt hj => ?_, hrest⟩, fun j hj => ?_,
    fun j jt hj hjb => ?_, hclean, hhist, hval⟩
  · rw [Context.item?_putItem] at hj
    split at hj
    · next e => cases hj; exact ⟨e ▸ hk, hb⟩
    · exact hslots j jt hj
  · rw [Context.item?_putItem]
    split
    · rfl
    · exact hcfg j hj
  · rw [Context.item?_putItem] at hj
    split at hj
    · next e => cases hj; exact e.trans (hs hjb)
    · exact hserial j jt hj hjb

/-- The cursor may move within the table while no item is in flight. -/
theorem Context.Inv.moveCursor {k : Nat} (hk : k < p.sdcCapacity)
    (hs : ∀ j it, c.item? j = some it → it.busyCycles = 0) : (c.moveCursor k).Inv p :=
  { h with
    inRange := ⟨fun _ _ => h.inRange.slot, h.inRange.count_le, hk, h.inRange.crcFailCount_le⟩
    serial := fun j it hj hb => absurd (hs j it hj) (by omega) }

/-- A byte of the outbound frame may be any; byte 3 keeps error and reserved bits clear. -/
theorem Context.Inv.putTx {o : Nat} {b : Byte} (ho : o < nFrame) (hb : o = 3 → b.extractLsb' 5 3 = 0#3) :
    (c.putTx o b).Inv p := by
  obtain ⟨hp, ⟨htx, hrx, hitems⟩, hrange, hcfg, hserial, hclean, hhist, hval⟩ := h
  refine ⟨hp, ⟨wf_putTx htx ho b, hrx, hitems⟩, hrange, hcfg, hserial, ?_, hhist, hval⟩
  rw [Context.OutboundClean, Context.txByte_putTx htx]
  split
  · next e => exact hb e.symm
  · exact hclean

/-- An event may be appended; an exchange must have sent a fit frame and got a whole answer. -/
theorem Context.Inv.append {e : Event}
    (he : ∀ sent answer, e = .exchange sent answer → SentFrame sent ∧ answer.wellFormed = true) : (c.append e).Inv p :=
  { h with
    historyOk := fun sent answer hm => by
      rcases List.mem_append.mp hm with hm | hm
      · exact h.historyOk sent answer hm
      · exact he sent answer (List.mem_singleton.mp hm).symm }

theorem Context.Inv.emit (d : Diag) : (c.emit d).Inv p := h.append nofun

theorem Context.Inv.emitIf (b : Bool) (d : Diag) : (c.emitIf b d).Inv p := by
  cases b
  · exact h
  · exact h.emit d

theorem Context.Inv.setTransport (tr : Transport) : Context.Inv p { c with transport := tr } := { h with }

theorem Context.Inv.setFault (f : Option FaultReason) : Context.Inv p { c with fault := f } := { h with }

theorem Context.Inv.setRefused (r : Option RefuseReason) : Context.Inv p { c with refused := r } := { h with }

/-- R38: the failure counter may take any value up to its saturation. -/
theorem Context.Inv.setCrcFailCount {n : Nat} (hn : n ≤ p.crcFailSat) : Context.Inv p { c with crcFailCount := n } :=
  { h with inRange := ⟨fun _ _ => h.inRange.slot, h.inRange.count_le, h.inRange.cursor_lt, hn⟩ }

/-- R153: count may take any value that covers configured slots only. -/
theorem Context.Inv.setCount {n : Nat} (hn : n ≤ p.sdcCapacity) (hc : c.configured n = true) :
    Context.Inv p { c with count := n } :=
  { h with
    inRange := ⟨fun _ _ => h.inRange.slot, hn, h.inRange.cursor_lt, h.inRange.crcFailCount_le⟩
    configured := (configured_iff c n).mp hc }

/-- R37: rx may take any canonical buffer that holds a valid frame. -/
theorem Context.Inv.setRx {m : Memory} (hm : m.wf) (hv : validate m.frame = true) :
    Context.Inv p { c with rx := some m } :=
  have ⟨htx, _, hitems⟩ := h.stored
  { h with
    stored := ⟨htx, fun _ e => Option.some.inj e ▸ hm, hitems⟩
    rxValidated := fun _ e => Option.some.inj e ▸ hv }

/-- R43 read from the cursor: where its item is not in flight, no item is. -/
theorem Context.Inv.idle_of_cursor {cur : Item} (hcur : c.item? c.cursor = some cur) (hb : cur.busyCycles = 0) (j : Nat)
    (it : Item) (hj : c.item? j = some it) : it.busyCycles = 0 := by
  by_contra hne
  obtain rfl := h.serial j it hj (by omega)
  exact hne (Option.some.inj (hcur.symm.trans hj) ▸ hb)

end KeepsInv

/-! ### The outbound frame that STAMP leaves, and the frame that a commit stores -/

/-- R78, R79, R123: a dispatch keeps the outbound error bit 0 and the reserved bits as they were. -/
theorem dispatchByte3_clean {old : Byte} {it : Item} (h : old.extractLsb' 5 3 = 0#3) :
    (dispatchByte3 old it).extractLsb' 5 3 = 0#3 := by
  apply BitVec.eq_of_getLsbD_eq
  intro i hi
  have hbit := congrArg (·.getLsbD i) h
  simp only [dispatchByte3, BitVec.getLsbD_extractLsb', BitVec.getLsbD_append] at hbit ⊢
  rcases Nat.eq_zero_or_pos i with rfl | hpos
  · simp
  · interval_cases i <;> simpa using hbit

/-- R102, R103: the frame that STAMP leaves passes VALIDATE. -/
theorem validate_stamp_frame {c : Context} (h : c.tx.wf) : validate (stamp c).tx.frame = true := by
  have hread : ∀ o, o < nFrame → byteAt (stamp c).tx.frame o = (stamp c).txByte o := fun o ho => by
    rw [Memory.frame, Memory.byteAt_readBytes _ 0 ho, Nat.zero_add]; rfl
  have hbody : (stamp c).tx.frame.take nCovered = c.tx.readBytes 0 nCovered := by
    rw [Memory.take_frame _ (by decide)]
    refine List.map_congr_left fun o ho => ?_
    have ho : o < 24 := List.mem_range.mp ho
    rw [Nat.zero_add]
    exact (stamp_txByte h o).trans (by rw [if_neg (by omega), if_neg (by omega)]; rfl)
  have hfield : le16 (stamp c).tx.frame (nFrame - crcLen) = crc16 (c.tx.readBytes 0 nCovered) := by
    rw [le16, hread _ (by decide), hread _ (by decide), stamp_txByte h, stamp_txByte h]
    exact le16_leBytes16 _ []
  rw [validate, hbody, hfield, beq_self_eq_true]

/-- A clean context sends a fit frame after STAMP. -/
theorem sentFrame_stamp {p : Params} {c : Context} (h : c.Inv p) : SentFrame (stamp c).tx.frame := by
  refine ⟨Memory.length_frame _, validate_stamp_frame h.tx_wf, ?_⟩
  have hbyte : byteAt (stamp c).tx.frame 3 = c.txByte 3 :=
    (Memory.byteAt_readBytes _ 0 (by decide)).trans (stamp_txByte h.tx_wf 3)
  rw [hbyte]
  exact h.outboundClean

/-- A buffer gives a whole frame back. -/
theorem Memory.frame_ofFrame {f : List Byte} (hf : isFrame f = true) : (Memory.ofFrame f).frame = f := by
  have hl : f.length = nFrame := by simpa [isFrame] using hf
  refine List.ext_getElem (by rw [Memory.length_frame, hl]) fun o h1 h2 => ?_
  have ho : o < nFrame := hl ▸ h2
  simp only [Memory.frame, Memory.readBytes, List.getElem_map, List.getElem_range, Nat.zero_add, Memory.read_ofFrame f ho]
  simp [byteAt, List.getD_eq_getElem?_getD, h2]

/-! ### The invariant under the engine steps -/

theorem stamp_keeps_inv {p : Params} {c : Context} (h : c.Inv p) : (stamp c).Inv p :=
  (h.putTx (o := 24) (by decide) nofun).putTx (o := 25) (by decide) nofun

theorem busyStep_keeps_inv {p : Params} {c : Context} (h : c.Inv p) {it : Item} (hit : c.item? c.cursor = some it) :
    (busyStep p c it).Inv p :=
  (h.putItem (h.inRange.slot hit).1 (Nat.min_le_right _ _) fun _ => rfl).emitIf _ _

/-- A dispatch with no item in flight makes exactly the slot of its new cursor busy. -/
theorem dispatch_keeps_inv {p : Params} {c : Context} (h : c.Inv p)
    (hidle : ∀ j it, c.item? j = some it → it.busyCycles = 0) {j : Nat} {it : Item} (hit : c.item? j = some it) :
    (dispatch c j it).Inv p := by
  have ⟨hj, _⟩ := h.inRange.slot hit
  have ⟨_, hsat, _⟩ := h.params
  have hone : 1 ≤ p.busySat := Nat.le_trans (by decide) hsat
  have htx := (((h.putTx (o := 0) (b := byteOf it.value 0) (by decide) nofun).putTx (o := 1) (b := byteOf it.value 1)
    (by decide) nofun).putTx (o := 2) (b := byteOf it.address 0) (by decide) nofun).putTx (o := 3)
    (b := dispatchByte3 (c.txByte 3) it) (by decide) fun _ => dispatchByte3_clean h.outboundClean
  exact (htx.moveCursor hj hidle).putItem (it := { it with busyCycles := 1, requested := false }) hj hone
    fun _ => rfl

theorem sched_keeps_inv {p : Params} {c c' : Context} (h : c.Inv p) (hs : sched p c = .ok c') : c'.Inv p := by
  rcases sched_ok hs with ⟨_, rfl⟩ | ⟨_, cur, hcur, ⟨_, rfl⟩ | ⟨hb, ⟨j, it, hscan, rfl⟩ | ⟨_, rfl⟩⟩⟩
  · exact h
  · exact busyStep_keeps_inv h hcur
  · have hidle := h.idle_of_cursor hcur (by simpa [Item.inFlight] using hb)
    obtain ⟨_, hit, _⟩ := scan_eq_some hscan
    exact dispatch_keeps_inv h hidle hit
  · exact h

/-- Accept frees the slot of the cursor, so that the cursor moves on with no item in flight. -/
theorem accept_keeps_inv {p : Params} {c : Context} (h : c.Inv p) (hlt : c.cursor < c.count) (it : Item) (r : SdcRec) :
    (accept c it r).Inv p := by
  have hcap := h.inRange.count_le
  refine (h.putItem (by omega) (Nat.zero_le _) fun _ => rfl).moveCursor ?_ fun j jt hj => ?_
  · exact Nat.lt_of_lt_of_le (Nat.mod_lt _ (by omega)) hcap
  · rw [Context.item?_putItem] at hj
    split at hj
    · cases hj; rfl
    · next hne => exact Nat.eq_zero_of_not_pos fun hb => hne (h.serial j jt hj hb)

theorem matchRec_keeps_inv {p : Params} {c c' : Context} {r : SdcRec} (h : c.Inv p) (hm : matchRec c r = .ok c') :
    c'.Inv p := by
  rcases matchRec_ok hm with ⟨_, rfl⟩ | ⟨hlt, it, _, ⟨_, rfl⟩ | ⟨_, _, rfl⟩⟩
  · exact h
  · exact h
  · exact accept_keeps_inv (h.emitIf _ _) (by simpa using hlt) it r

theorem crcFailure_keeps_inv {p : Params} {c : Context} (h : c.Inv p) : (crcFailure p c).Inv p :=
  (h.setCrcFailCount (Nat.min_le_right _ _)).emitIf _ _

theorem commit_keeps_inv {p : Params} {c : Context} (h : c.Inv p) {f : List Byte} (hf : isFrame f = true)
    (hv : validate f = true) : (commit c f).Inv p :=
  ((h.emitIf _ _).setCrcFailCount (Nat.zero_le _)).setRx (Memory.wf_ofFrame f) ((Memory.frame_ofFrame hf).symm ▸ hv)

/-- R142 to R145: the exchange of a fit frame with a whole answer. -/
theorem exchange_keeps_inv {a : Answer} {s t : State} (h : s.Inv) (hf : SentFrame s.ctx.tx.frame)
    (ha : a.wellFormed = true) (he : exchange a s = .next t) : t.Inv := by
  have hrec : (s.ctx.append (.exchange s.ctx.tx.frame a)).Inv s.params :=
    h.append fun sent answer e => by cases e; exact ⟨hf, ha⟩
  rcases exchange_next he with ⟨_, rfl⟩ | ⟨f, _, _, rfl⟩ | ⟨f, c, rfl, hv, hm, rfl⟩
  · exact hrec
  · exact crcFailure_keeps_inv hrec
  · exact matchRec_keeps_inv (commit_keeps_inv hrec ha hv) hm

/-! ### The invariant under every operation and every step -/

theorem setField_busyCycles_le {it : Item} {field : ItemField} {v : Nat} (hb : field = .busyCycles → v = 0) :
    (it.setField field v).busyCycles ≤ it.busyCycles := by
  cases field with
  | busyCycles => exact (hb rfl).le.trans (Nat.zero_le _)
  | _ => exact le_rfl

/-- Every well-formed operation keeps the invariant. -/
theorem exec_keeps_inv {s t : State} {i : Instr} (hs : s.Inv) (hw : i.wellFormed = true) (h : exec i s = .next t) :
    t.Inv := by
  by_cases hi : i = .reset
  · subst hi; cases h; exact Context.reset_inv hs.params
  cases exec_effect hi h with
  | returns r => exact hs
  | refuses why hm => exact hs.setRefused _
  | faults hm hi h => exact hs.setFault _
  | schedules c hm hi ha hc => exact sched_keeps_inv hs hc
  | stamps hm hi => exact stamp_keeps_inv hs
  | matching r c hm hi ha hc => exact matchRec_keeps_inv hs hc
  | cycles a c t hm hi ho hc he =>
    subst hi
    have hc := sched_keeps_inv hs hc
    exact exchange_keeps_inv (s := s.withCtx (stamp c)) (stamp_keeps_inv hc) (sentFrame_stamp hc) hw he
  | opens hm hi h => exact hs.setTransport _
  | setupFails hm hi h => exact hs.emit _
  | closes hm hi h => exact hs.setTransport _
  | counts n hm hi hn hc => exact hs.setCount hn hc
  | configs k raw hm hi hk hb =>
    exact hs.putItem hk (hb.le.trans (Nat.zero_le _)) fun hpos => absurd hb (Nat.ne_of_gt hpos)
  | writes k field v it hm hi hk hit hb =>
    have hle := setField_busyCycles_le (it := it) hb
    exact hs.putItem hk (hle.trans (hs.inRange.slot hit).2) fun hpos => hs.serial k it hit (Nat.lt_of_lt_of_le hpos hle)
  | writesTx o b hm hi h4 h23 hb => exact hs.putTx (Nat.lt_of_le_of_lt h23 (by decide)) fun e => absurd e (by omega)

/-- Everything a step can do: rest, or run the well-formed operation of its oldest request. -/
theorem step_next {s t : State} (h : step s = .next t) :
    (s.pending = [] ∧ t = s) ∨
    ∃ r rest, s.pending = r :: rest ∧ r.op.wellFormed = true ∧ exec r.op { s with pending := rest } = .next t := by
  unfold step at h
  split at h
  · next hp => cases h; exact .inl ⟨hp, rfl⟩
  next r rest hp =>
  refine .inr ⟨r, rest, hp, ?_⟩
  unfold fetchRequest at h
  split_ifs at h with _ hw
  exact ⟨by simpa using hw, h⟩

/-- Settles O46: the step rests, or runs an operation that keeps the invariant. -/
theorem stepKeepsTheInvariant : Obligations.StepKeepsTheInvariant := by
  intro s t hs h
  rcases step_next h with ⟨_, rfl⟩ | ⟨r, rest, _, hw, h⟩
  · exact hs
  · exact exec_keeps_inv (s := { s with pending := rest }) hs hw h

/-- Settles O45: R46's table, with parameters that R10 allows. -/
theorem resetHasTheInvariant : Obligations.ResetHasTheInvariant :=
  Context.reset_inv ⟨Nat.le_add_left _ _, Nat.le_add_left _ _, Nat.le_add_left _ _⟩

/-- A property of the state after RESET that every step keeps holds along every run. -/
theorem run_induction {P : State → Prop} (hstep : ∀ s t, P s → step s = .next t → P t) {n : Nat} {s t : State}
    (hs : P s) (h : core.run n s = .next t) : P t := by
  induction n generalizing s with
  | zero => cases h; exact hs
  | succ n ih =>
    simp only [Host.Core.run] at h
    split at h
    · next s' hs' => exact ih (hstep s s' hs hs') h
    · cases h
    · cases h

/-- R43: a run from RESET keeps the invariant. -/
theorem run_reset_inv {requests : List Request} {n : Nat} {t : State}
    (h : core.run n { State.reset with pending := requests } = .next t) : t.Inv :=
  run_induction stepKeepsTheInvariant (s := { State.reset with pending := requests }) resetHasTheInvariant h

/-- Settles O48: the invariant holds along the run, and puts every busy slot at the cursor. -/
theorem atMostOneBusySlotInEveryRun : Obligations.AtMostOneBusySlotInEveryRun := by
  intro requests n t h j k it it' hj hjb hk hkb
  have hserial := (run_reset_inv h).serial
  have hkc := hserial k it' hk hkb
  exact ⟨(hserial j it hj hjb).trans hkc.symm, hkc⟩

end Sys2Proof.Machine
end

section
/-!
PROOFS of 10_state.md: who writes which field. What the exchange of a CYCLE leaves is said once; each claim about every
operation is then a case analysis of what an operation can do.
-/

namespace Sys2Proof.Machine

/-! ### What the exchange of a CYCLE leaves -/

/-- R143 to R145: the exchange writes the item at the cursor, the cursor, rx, the failure counter and the events. -/
theorem exchange_keeps {a : Answer} {s t : State} (h : exchange a s = .next t) :
    t.ctx.count = s.ctx.count ∧ t.ctx.tx = s.ctx.tx ∧ t.ctx.transport = s.ctx.transport ∧
      t.ctx.fault = s.ctx.fault ∧ t.ctx.refused = s.ctx.refused := by
  rcases exchange_ctx h with ⟨_, _, e⟩ | ⟨_, _, _, _, e⟩ | ⟨_, _, _, _, hm⟩
  · simp [e]
  · simp [e]
  · obtain ⟨hcount, htx, _, _, htr, hfault, href⟩ := matchRec_keeps hm
    exact ⟨hcount, htx, htr, hfault, href⟩

/-- R38: only received bytes change the failure counter. -/
theorem exchange_fail_crcFailCount {s t : State} (h : exchange .fail s = .next t) :
    t.ctx.crcFailCount = s.ctx.crcFailCount := by
  cases h; rfl

/-- R37: an exchange that does not return OK keeps rx; one that does has received a valid frame and stored it. -/
theorem exchange_rx {a : Answer} {s t : State} (h : exchange a s = .next t) :
    (t.result ≠ some .ok ∧ t.ctx.rx = s.ctx.rx) ∨
    ∃ f, a = .bytes f ∧ validate f = true ∧ t.result = some .ok ∧ t.ctx.rx = some (Memory.ofFrame f) := by
  rcases exchange_ctx h with ⟨_, hr, e⟩ | ⟨_, _, _, hr, e⟩ | ⟨f, ha, hv, hr, hm⟩
  · exact .inl (by simp [hr, e])
  · exact .inl (by simp [hr, e])
  · obtain ⟨_, _, hrx, _, _, _, _⟩ := matchRec_keeps hm
    exact .inr ⟨f, ha, hv, hr, hrx⟩

theorem sched_appends {p : Params} {c c' : Context} (h : sched p c = .ok c') : c.events <+: c'.events := by
  rcases sched_events h with e | ⟨_, _, e⟩
  · exact e ▸ List.prefix_rfl
  · exact e ▸ List.prefix_append _ _

theorem matchRec_appends {c c' : Context} {r : SdcRec} (h : matchRec c r = .ok c') : c.events <+: c'.events := by
  rcases matchRec_events h with e | ⟨_, _, _, e⟩
  · exact e ▸ List.prefix_rfl
  · exact e ▸ List.prefix_append _ _

theorem exchange_appends {a : Answer} {s t : State} (h : exchange a s = .next t) : s.ctx.events <+: t.ctx.events := by
  rcases exchange_ctx h with ⟨_, _, e⟩ | ⟨_, _, _, _, e⟩ | ⟨_, _, _, _, hm⟩
  · exact e ▸ List.prefix_append _ _
  · exact e ▸ (List.prefix_append _ _).trans (List.prefix_append _ _)
  · exact ((List.prefix_append _ _).trans (List.prefix_append _ _)).trans (matchRec_appends hm)

/-! ### Transport and events -/

theorem exec_transport {s t : State} {i : Instr} (hi : i ≠ .reset) (h : exec i s = .next t) :
    t.ctx.transport = s.ctx.transport ∨
      (s.ctx.transport = .unopened ∧ t.ctx.transport = .opened ∧ i = .hOpen .ok) ∨
      (s.ctx.transport = .opened ∧ t.ctx.transport = .closed ∧ i = .hClose) := by
  cases exec_effect hi h with
  | schedules c hm hi ha hs =>
    obtain ⟨_, _, _, htr, _, _⟩ := sched_keeps hs
    exact .inl htr
  | matching r c hm hi ha hr =>
    obtain ⟨_, _, _, _, htr, _, _⟩ := matchRec_keeps hr
    exact .inl htr
  | cycles a c t hm hi ho hs he =>
    obtain ⟨_, _, _, htr, _, _⟩ := sched_keeps hs
    obtain ⟨_, _, htr', _, _⟩ := exchange_keeps he
    exact .inl (htr'.trans htr)
  | opens hm hi hu => exact .inr (.inl ⟨hu, rfl, hi⟩)
  | closes hm hi ho => exact .inr (.inr ⟨ho, rfl, hi⟩)
  | _ => exact .inl rfl

/-- Settles O43: of what an operation can do, only H.OPEN and H.CLOSE write the transport; a CYCLE returns at its first step
unless the transport is open. -/
theorem transportLife : Obligations.TransportLife := by
  refine ⟨fun s t i => exec_transport, fun s t a h hne => ?_⟩
  rcases execCycle_next h with ⟨_, rfl⟩ | ⟨_, _, rfl⟩ | ⟨_, ho, _⟩
  · exact absurd rfl hne
  · exact absurd rfl hne
  · exact ho

/-- Settles O50: SCHED, MATCH, the exchange and a failed setup append, and nothing else writes the events. -/
theorem eventsAreAppendOnly : Obligations.EventsAreAppendOnly := by
  intro s t i hi h
  suffices hpre : s.ctx.events <+: t.ctx.events from hpre.imp fun _ e => e.symm
  cases exec_effect hi h with
  | schedules c hm hi ha hs => exact sched_appends hs
  | matching r c hm hi ha hr => exact matchRec_appends hr
  | cycles a c t hm hi ho hs he => exact (sched_appends hs).trans (exchange_appends he)
  | setupFails hm hi hu => exact List.prefix_append _ _
  | _ => exact List.prefix_rfl

/-! ### The scalar fields -/

theorem Schedules.movesCursor {i : Instr} (h : Schedules i) : MovesCursor i := by
  rcases h with h | h | ⟨bs, h⟩
  · exact .inl h
  · exact .inr (.inr (.inl h))
  · exact .inr (.inr (.inr (by rw [h]; rfl)))

theorem cycle_schedules {i : Instr} {a : Answer} (h : i = .cycle a) : Schedules i := .inr (.inl ⟨a, h⟩)

/-- R33: H.SETCOUNT alone writes count. -/
theorem exec_count {s t : State} {i : Instr} (hi : i ≠ .reset) (h : exec i s = .next t) :
    t.ctx.count = s.ctx.count ∨ ∃ n, i = .hSetCount n ∧ t.ctx.count = n := by
  cases exec_effect hi h with
  | schedules c hm hi ha hs => exact .inl (sched_keeps hs).1
  | matching r c hm hi ha hr => exact .inl (matchRec_keeps hr).1
  | cycles a c t hm hi ho hs he => exact .inl ((exchange_keeps he).1.trans (sched_keeps hs).1)
  | counts n hm hi hn hc => exact .inr ⟨n, hi, rfl⟩
  | _ => exact .inl rfl

/-- R34: SCHED and MATCH alone write the cursor. -/
theorem exec_cursor {s t : State} {i : Instr} (hi : i ≠ .reset) (h : exec i s = .next t) :
    t.ctx.cursor = s.ctx.cursor ∨ MovesCursor i := by
  cases exec_effect hi h with
  | schedules c hm hi ha hs => exact .inr hi.movesCursor
  | matching r c hm hi ha hr => exact .inr hi
  | cycles a c t hm hi ho hs he => exact .inr (cycle_schedules hi).movesCursor
  | _ => exact .inl rfl

/-- R38: a CYCLE that receives bytes alone writes the failure counter. -/
theorem exec_crcFailCount {s t : State} {i : Instr} (hi : i ≠ .reset) (h : exec i s = .next t) :
    t.ctx.crcFailCount = s.ctx.crcFailCount ∨ ∃ f, i = .cycle (.bytes f) := by
  cases exec_effect hi h with
  | schedules c hm hi ha hs =>
    obtain ⟨_, _, hcrc, _, _, _⟩ := sched_keeps hs
    exact .inl hcrc
  | matching r c hm hi ha hr =>
    obtain ⟨_, _, _, hcrc, _, _, _⟩ := matchRec_keeps hr
    exact .inl hcrc
  | cycles a c t hm hi ho hs he =>
    obtain ⟨_, _, hcrc, _, _, _⟩ := sched_keeps hs
    cases a with
    | fail => exact .inl ((exchange_fail_crcFailCount he).trans hcrc)
    | bytes f => exact .inr ⟨f, hi⟩
  | _ => exact .inl rfl

/-- R41: SCHED alone sets the fault mark. -/
theorem exec_fault {s t : State} {i : Instr} (hi : i ≠ .reset) (h : exec i s = .next t) :
    t.ctx.fault = s.ctx.fault ∨ Schedules i := by
  cases exec_effect hi h with
  | faults hm hi hs => exact .inr hi
  | schedules c hm hi ha hs => exact .inr hi
  | matching r c hm hi ha hr =>
    obtain ⟨_, _, _, _, _, hfault, _⟩ := matchRec_keeps hr
    exact .inl hfault
  | cycles a c t hm hi ho hs he => exact .inr (cycle_schedules hi)
  | _ => exact .inl rfl

/-- Settles O51: each field has the writers that its lemma names. -/
theorem scalarFieldWriters : Obligations.ScalarFieldWriters := by
  intro s t i h
  obtain ⟨hparams, hpending⟩ := exec_params h
  exact ⟨hparams, hpending, fun hi => ⟨(exec_count hi h).resolve_left, (exec_cursor hi h).resolve_left,
    (exec_crcFailCount hi h).resolve_left, (exec_fault hi h).resolve_left⟩⟩

/-! ### The frame buffers -/

/-- STAMP writes the checksum's two bytes, nothing else (40_checksum.md R102). -/
theorem stamp_txByte_ne {c : Context} (h : c.tx.wf) {o : Nat} (hne : (stamp c).txByte o ≠ c.txByte o) :
    o = 24 ∨ o = 25 := by
  rw [stamp_txByte h] at hne
  split_ifs at hne with h25 h24
  · exact .inr h25
  · exact .inl h24
  · exact absurd rfl hne

/-- SCHED writes the sub-frame's four bytes, nothing else (42_scheduler.md R123). -/
theorem sched_txByte_ne {p : Params} {c c' : Context} (hw : c.tx.wf) (h : sched p c = .ok c') {o : Nat}
    (hne : c'.txByte o ≠ c.txByte o) : o < 4 :=
  Nat.lt_of_not_le fun ho => hne (sched_txByte hw h ho)

/-- Settles O52: a byte of tx that changes was written by SCHED, STAMP or H.WRITETX, each in its region. -/
theorem txRegionsHaveTheirWriters : Obligations.TxRegionsHaveTheirWriters := by
  intro s t i o hi hw h hne
  cases exec_effect hi h with
  | schedules c hm hi ha hs => exact .inl ⟨sched_txByte_ne hw hs hne, hi⟩
  | stamps hm hi => exact .inr (.inr ⟨stamp_txByte_ne hw hne, .inl hi⟩)
  | matching r c hm hi ha hr =>
    obtain ⟨_, htx, _⟩ := matchRec_keeps hr
    exact absurd (congrArg (Memory.read · o) htx) hne
  | cycles a c t hm hi ho hs he =>
    obtain ⟨_, htx, _⟩ := exchange_keeps he
    have hsent : t.ctx.txByte o = (stamp c).txByte o := congrArg (Memory.read · o) htx
    by_cases hc : c.txByte o = s.ctx.txByte o
    · exact .inr (.inr ⟨stamp_txByte_ne (sched_wf hw hs) (by rwa [← hsent, hc]), .inr ⟨a, hi⟩⟩)
    · exact .inl ⟨sched_txByte_ne hw hs hc, cycle_schedules hi⟩
  | writesTx k b hm hi h4 h23 hb =>
    obtain rfl : o = k := by
      by_contra hk
      exact hne ((Context.txByte_putTx hw k _ o).trans (if_neg hk))
    exact .inr (.inl ⟨h4, h23, b, hi⟩)
  | _ => exact absurd rfl hne

/-- R37: only a CYCLE that returns OK writes rx. -/
theorem exec_rx {s t : State} {i : Instr} (hi : i ≠ .reset) (h : exec i s = .next t) :
    t.ctx.rx = s.ctx.rx ∨ ∃ a, i = .cycle a ∧ t.result = some .ok := by
  cases exec_effect hi h with
  | schedules c hm hi ha hs =>
    obtain ⟨_, hrx, _, _, _, _⟩ := sched_keeps hs
    exact .inl hrx
  | matching r c hm hi ha hr =>
    obtain ⟨_, _, hrx, _, _, _, _⟩ := matchRec_keeps hr
    exact .inl hrx
  | cycles a c t hm hi ho hs he =>
    obtain ⟨_, hrx, _, _, _, _⟩ := sched_keeps hs
    rcases exchange_rx he with ⟨_, hrx'⟩ | ⟨f, _, _, hr, _⟩
    · exact .inl (hrx'.trans hrx)
    · exact .inr ⟨a, hi, hr⟩
  | _ => exact .inl rfl

/-- R145: a CYCLE that returns OK has received a valid frame and stored it. -/
theorem execCycle_ok {f : List Byte} {s t : State} (h : execCycle (.bytes f) s = .next t) (hr : t.result = some .ok) :
    validate f = true ∧ t.ctx.rx = some (Memory.ofFrame f) := by
  rcases execCycle_next h with ⟨_, rfl⟩ | ⟨_, _, rfl⟩ | ⟨_, _, ⟨_, rfl⟩ | ⟨c, _, he⟩⟩
  · cases hr
  · cases hr
  · cases hr
  · rcases exchange_rx he with ⟨hne, _⟩ | ⟨g, hg, hv, _, hrx⟩
    · exact absurd hr hne
    · cases hg; exact ⟨hv, hrx⟩

/-- Settles O53: rx has one writer, and the buffer it stores reads the received bytes. -/
theorem rxIsWrittenByOkCyclesOnly : Obligations.RxIsWrittenByOkCyclesOnly := by
  refine fun s t i hi _ h => ⟨(exec_rx hi h).resolve_left, ?_⟩
  rintro f rfl hr
  obtain ⟨hv, hrx⟩ := execCycle_ok h hr
  exact ⟨hv, _, hrx, fun o => Memory.read_ofFrame f⟩

/-! ### The items -/

/-- What the engine leaves of a slot (R24, R26, R27, R28, R29, R31): an empty slot stays empty, and an item keeps its address,
factor, factor_counter and is_write, is not requested anew and stays completed. -/
def EngineAccess (slot slot' : Option Item) : Prop :=
  (slot = none → slot' = none) ∧
  ∀ it, slot = some it → ∃ it', slot' = some it' ∧ it'.address = it.address ∧ it'.factor = it.factor ∧
    it'.factorCounter = it.factorCounter ∧ it'.isWrite = it.isWrite ∧
    (it'.requested = true → it.requested = true) ∧ (it.completed = true → it'.completed = true)

theorem EngineAccess.of_eq {slot slot' : Option Item} (h : slot' = slot) : EngineAccess slot slot' := by
  subst h
  exact ⟨id, fun it e => ⟨it, e, rfl, rfl, rfl, rfl, id, id⟩⟩

theorem EngineAccess.trans {slot₁ slot₂ slot₃ : Option Item} (h : EngineAccess slot₁ slot₂)
    (h' : EngineAccess slot₂ slot₃) : EngineAccess slot₁ slot₃ := by
  refine ⟨h'.1 ∘ h.1, fun it e => ?_⟩
  obtain ⟨it₂, e₂, ha, hf, hfc, hw, hr, hc⟩ := h.2 it e
  obtain ⟨it₃, e₃, ha', hf', hfc', hw', hr', hc'⟩ := h'.2 it₂ e₂
  exact ⟨it₃, e₃, ha'.trans ha, hf'.trans hf, hfc'.trans hfc, hw'.trans hw, hr ∘ hr', hc' ∘ hc⟩

/-- An item written with other busy counts, values and error flags, with requested cleared or completed set. -/
theorem EngineAccess.of_some {slot slot' : Option Item} {it it' : Item} (e : slot = some it) (e' : slot' = some it')
    (h : it'.address = it.address ∧ it'.factor = it.factor ∧ it'.factorCounter = it.factorCounter ∧
      it'.isWrite = it.isWrite ∧ (it'.requested = true → it.requested = true) ∧
      (it.completed = true → it'.completed = true)) : EngineAccess slot slot' := by
  subst e e'
  exact ⟨nofun, fun _ e => by cases e; exact ⟨it', rfl, h⟩⟩

theorem sched_engineAccess {p : Params} {c c' : Context} (h : sched p c = .ok c') (k : Nat) :
    EngineAccess (c.item? k) (c'.item? k) := by
  rcases sched_item? h k with e | ⟨it, hit, ⟨_, _, _, e⟩ | ⟨_, e⟩⟩
  · exact .of_eq e
  · exact .of_some hit e ⟨rfl, rfl, rfl, rfl, id, id⟩
  · exact .of_some hit e ⟨rfl, rfl, rfl, rfl, nofun, id⟩

theorem matchRec_engineAccess {c c' : Context} {r : SdcRec} (h : matchRec c r = .ok c') (k : Nat) :
    EngineAccess (c.item? k) (c'.item? k) := by
  rcases matchRec_item? h k with e | ⟨it, _, hit, _, _, e⟩
  · exact .of_eq e
  · exact .of_some hit e ⟨rfl, rfl, rfl, rfl, id, fun _ => rfl⟩

theorem exchange_engineAccess {a : Answer} {s t : State} (h : exchange a s = .next t) (k : Nat) :
    EngineAccess (s.ctx.item? k) (t.ctx.item? k) := by
  rcases exchange_ctx h with ⟨_, _, e⟩ | ⟨_, _, _, _, e⟩ | ⟨_, _, _, _, hm⟩
  · exact .of_eq (e ▸ rfl)
  · exact .of_eq (e ▸ rfl)
  · exact matchRec_engineAccess hm k

/-- A slot that another slot's write does not touch. -/
theorem engineAccess_putItem {c : Context} {k j : Nat} {it : Item} (h : k ≠ j) :
    EngineAccess (c.item? k) ((c.putItem j it).item? k) :=
  .of_eq (by rw [Context.item?_putItem, if_neg h])

/-- Settles O54: SCHED, MATCH and the exchange access a slot as the engine may, and the host's two writes name theirs. -/
theorem engineItemAccess : Obligations.EngineItemAccess := by
  intro s t i k hi hconfig hwrite h
  change EngineAccess (s.ctx.item? k) (t.ctx.item? k)
  cases exec_effect hi h with
  | schedules c hm hi ha hs => exact sched_engineAccess hs k
  | matching r c hm hi ha hr => exact matchRec_engineAccess hr k
  | cycles a c t hm hi ho hs he => exact (sched_engineAccess hs k).trans (exchange_engineAccess he k)
  | configs j raw hm hi hj hb => exact engineAccess_putItem fun e => hconfig raw (e ▸ hi)
  | writes j field v it hm hi hj hit hb => exact engineAccess_putItem fun e => hwrite field v (e ▸ hi)
  | _ => exact .of_eq rfl

/-! ### The reset state -/

/-- Settles O42: the reset state is closed but for its parameters, which none of the reads depends on. -/
theorem resetStateReads : Obligations.ResetStateReads :=
  ⟨fun _ => rfl, fun _ => rfl, rfl, rfl, rfl, rfl, rfl, rfl⟩

end Sys2Proof.Machine
end

section
/-!
PROOFS of 10_state.md: what influences nothing. The rates of the items (R26, R27) are forgotten by a map on contexts that
every engine step commutes with; the failure counter (R38) is replaced by a relation that every engine step keeps.
-/

namespace Sys2Proof.Machine

/-! ### Key-sorted lists under a map of their values -/

section Cells

variable {α β : Type} (f : α → β)

theorem cellGet_map (k : Nat) (m : List (Nat × α)) :
    cellGet k (m.map fun e => (e.1, f e.2)) = (cellGet k m).map f := by
  induction m with
  | nil => rfl
  | cons c rest ih =>
    simp only [List.map_cons, cellGet, ih]
    split <;> rfl

theorem cellPut_map (k : Nat) (v : α) (m : List (Nat × α)) :
    cellPut k (f v) (m.map fun e => (e.1, f e.2)) = (cellPut k v m).map fun e => (e.1, f e.2) := by
  induction m with
  | nil => rfl
  | cons c rest ih =>
    simp only [List.map_cons, cellPut, ih]
    split
    · rfl
    · split <;> rfl

end Cells

/-! ### The two ways an exchange goes on with received bytes -/

/-- What a CYCLE leaves before MATCH when it receives a valid frame: the exchange on record and the frame committed (R145). -/
def Context.receive (c : Context) (f : List Byte) : Context := commit (c.append (.exchange c.tx.frame (.bytes f))) f

/-- What a CYCLE leaves when it receives a frame that is not valid: the exchange on record and the failure counted (R144). -/
def Context.reject (p : Params) (c : Context) (f : List Byte) : Context :=
  crcFailure p (c.append (.exchange c.tx.frame (.bytes f)))

theorem exchange_of_valid {f : List Byte} (hv : validate f = true) (s : State) :
    exchange (.bytes f) s = (s.withCtx (s.ctx.receive f)).andThen
      (matchRec (s.ctx.receive f) (decodeSdc (f.take sdcLen))) fun u => .next (u.return .ok) :=
  if_pos hv

theorem exchange_of_invalid {f : List Byte} (hv : validate f = false) (s : State) :
    exchange (.bytes f) s =
      .next ((s.withCtx (s.ctx.reject s.params f)).return .crcFail) :=
  if_neg (by simp [hv])

/-! ### Forgetting the rates commutes with every operation on a context -/

/-- `State.forgetRates` on a context. -/
def Context.forgetRates (c : Context) : Context :=
  { c with items := c.items.map fun e => (e.1, e.2.forgetRate) }

theorem State.forgetRates_eq (s : State) : s.forgetRates = s.withCtx s.ctx.forgetRates := rfl

theorem Context.item?_forgetRates (c : Context) (k : Nat) : c.forgetRates.item? k = (c.item? k).map Item.forgetRate :=
  cellGet_map Item.forgetRate k c.items

theorem Context.putItem_forgetRates (c : Context) (k : Nat) (it : Item) :
    c.forgetRates.putItem k it.forgetRate = (c.putItem k it).forgetRates :=
  congrArg (fun items => { c with items }) (cellPut_map Item.forgetRate k it c.items)

theorem Context.emitIf_forgetRates (c : Context) (b : Bool) (d : Diag) :
    c.forgetRates.emitIf b d = (c.emitIf b d).forgetRates := by cases b <;> rfl

/-- R122: eligibility reads of factor only whether it is 0. -/
theorem Item.eligible_forgetRate (it : Item) : it.forgetRate.eligible = it.eligible := by
  have : 0 < min it.factor 1 ↔ 0 < it.factor := by omega
  simp [Item.eligible, Item.forgetRate, this]

theorem busyStep_forgetRates (p : Params) (c : Context) (it : Item) :
    busyStep p c.forgetRates it.forgetRate = (busyStep p c it).forgetRates := by
  simp only [busyStep, ← Context.emitIf_forgetRates, ← Context.putItem_forgetRates]
  rfl

theorem dispatch_forgetRates (c : Context) (j : Nat) (it : Item) :
    dispatch c.forgetRates j it.forgetRate = (dispatch c j it).forgetRates := by
  have hput := Context.putItem_forgetRates ((((c.putTx 0 (byteOf it.value 0)).putTx 1 (byteOf it.value 1)).putTx 2
    (byteOf it.address 0)).putTx 3 (dispatchByte3 (c.txByte 3) it)) j { it with busyCycles := 1, requested := false }
  exact congrArg (Context.moveCursor · j) hput

theorem scanSlots_forgetRates (c : Context) (l : List Nat) :
    scanSlots c.forgetRates l = (scanSlots c l).map (Option.map fun q => (q.1, q.2.forgetRate)) := by
  induction l with
  | nil => rfl
  | cons j js ih =>
    simp only [scanSlots, Context.item?_forgetRates, ih]
    cases c.item? j with
    | none => rfl
    | some it =>
      simp only [Option.map_some, Item.eligible_forgetRate]
      split <;> rfl

theorem sched_forgetRates (p : Params) (c : Context) :
    sched p c.forgetRates = (sched p c).map Context.forgetRates := by
  have hcount : c.forgetRates.count = c.count := rfl
  have hcursor : c.forgetRates.cursor = c.cursor := rfl
  simp only [sched, hcount, hcursor, Context.item?_forgetRates]
  split
  · rfl
  split
  · rfl
  cases c.item? c.cursor with
  | none => rfl
  | some it =>
    have hscan : scan c.forgetRates = (scan c).map (Option.map fun q => (q.1, q.2.forgetRate)) :=
      scanSlots_forgetRates c _
    have hbusy : it.forgetRate.inFlight = it.inFlight := rfl
    simp only [Option.map_some, hbusy, hscan]
    split
    · exact congrArg Except.ok (busyStep_forgetRates p c it)
    match scan c with
    | .error stop => rfl
    | .ok none => rfl
    | .ok (some (j, it')) => exact congrArg Except.ok (dispatch_forgetRates c j it')

theorem accept_forgetRates (c : Context) (it : Item) (r : SdcRec) :
    accept c.forgetRates it.forgetRate r = (accept c it r).forgetRates :=
  congrArg (Context.moveCursor · ((c.cursor + 1) % c.count)) (Context.putItem_forgetRates c c.cursor
    { it with busyCycles := 0, completed := true, value := r.value, errored := r.error })

theorem matchItem_forgetRates (c : Context) (it : Item) (r : SdcRec) :
    matchItem c.forgetRates it.forgetRate r = (matchItem c it r).forgetRates := by
  have hmis : it.forgetRate.mismatches r = it.mismatches r := rfl
  have hecho : it.forgetRate.echoDiffers r = it.echoDiffers r := rfl
  simp only [matchItem, hmis, hecho]
  split
  · rfl
  split
  · rfl
  rw [Context.emitIf_forgetRates, accept_forgetRates]
  rfl

theorem matchRec_forgetRates (c : Context) (r : SdcRec) :
    matchRec c.forgetRates r = (matchRec c r).map Context.forgetRates := by
  have hcount : c.forgetRates.count = c.count := rfl
  have hcursor : c.forgetRates.cursor = c.cursor := rfl
  simp only [matchRec, hcount, hcursor, Context.item?_forgetRates]
  split
  · rfl
  cases c.item? c.cursor with
  | none => rfl
  | some it => exact congrArg Except.ok (matchItem_forgetRates c it r)

theorem Context.receive_forgetRates (c : Context) (f : List Byte) :
    c.forgetRates.receive f = (c.receive f).forgetRates := by
  simp only [Context.receive, commit_eq]
  rfl

theorem Context.reject_forgetRates (p : Params) (c : Context) (f : List Byte) :
    c.forgetRates.reject p f = (c.reject p f).forgetRates := by
  simp only [Context.reject, crcFailure_eq]
  rfl

/-! ### Forgetting the rates commutes with every operation that reads an item -/

theorem unlessMarked_forgetRates {s : State} {k : State → Out}
    (hk : k s.forgetRates = mapNext State.forgetRates (k s)) :
    s.forgetRates.unlessMarked k = mapNext State.forgetRates (s.unlessMarked k) := by
  have hm : s.forgetRates.ctx.marked = s.ctx.marked := rfl
  simp only [State.unlessMarked, hm]
  split
  · rfl
  · exact hk

theorem andThen_forgetRates {s : State} {r : Except EngineStop Context} {k k' : State → Out}
    (hk : ∀ c, k' (s.withCtx c).forgetRates = mapNext State.forgetRates (k (s.withCtx c))) :
    s.forgetRates.andThen (r.map Context.forgetRates) k' = mapNext State.forgetRates (s.andThen r k) :=
  match r with
  | .ok c => hk c
  | .error .cursorOutOfRange => rfl
  | .error .emptySlotRead => rfl

theorem sendSubframe_forgetRates (r : SdcRec) (s : State) :
    sendSubframe r s.forgetRates = mapNext State.forgetRates (sendSubframe r s) := by
  refine unlessMarked_forgetRates ?_
  rw [show sched s.forgetRates.params s.forgetRates.ctx = _ from sched_forgetRates s.params s.ctx]
  refine andThen_forgetRates fun c => ?_
  rw [apply_ite (mapNext State.forgetRates)]
  rfl

theorem receiveSubframe_forgetRates (r : SdcRec) (s : State) :
    receiveSubframe r s.forgetRates = mapNext State.forgetRates (receiveSubframe r s) := by
  refine unlessMarked_forgetRates ?_
  rw [show matchRec s.forgetRates.ctx r = _ from matchRec_forgetRates s.ctx r]
  exact andThen_forgetRates fun c => rfl

theorem execSched_forgetRates (s : State) : execSched s.forgetRates = mapNext State.forgetRates (execSched s) := by
  refine unlessMarked_forgetRates ?_
  rw [show sched s.forgetRates.params s.forgetRates.ctx = _ from sched_forgetRates s.params s.ctx]
  exact andThen_forgetRates fun c => rfl

theorem exchange_forgetRates (a : Answer) (s : State) :
    exchange a s.forgetRates = mapNext State.forgetRates (exchange a s) := by
  cases a with
  | fail => rfl
  | bytes f =>
    cases hv : validate f
    · have hrej : s.forgetRates.ctx.reject s.forgetRates.params f = _ := Context.reject_forgetRates s.params s.ctx f
      rw [exchange_of_invalid hv, exchange_of_invalid hv, hrej]
      rfl
    · have hrec : s.forgetRates.ctx.receive f = _ := Context.receive_forgetRates s.ctx f
      rw [exchange_of_valid hv, exchange_of_valid hv, hrec, matchRec_forgetRates]
      exact andThen_forgetRates (s := s.withCtx (s.ctx.receive f)) fun c => rfl

theorem execCycle_forgetRates (a : Answer) (s : State) :
    execCycle a s.forgetRates = mapNext State.forgetRates (execCycle a s) := by
  refine unlessMarked_forgetRates ?_
  have htr : s.forgetRates.ctx.transport = s.ctx.transport := rfl
  simp only [htr]
  split
  · rfl
  rw [show sched s.forgetRates.params s.forgetRates.ctx = _ from sched_forgetRates s.params s.ctx]
  exact andThen_forgetRates fun c => exchange_forgetRates a (s.withCtx (stamp c))

/-- A sub-frame kind is the SCHED step that sends it or the MATCH step that receives it (30_encoding.md R76). -/
theorem exec_of_encode {i : Instr} (h : (encode i).isSome = true) :
    (∃ r, ∀ s, exec i s = sendSubframe r s) ∨ ∃ r, ∀ s, exec i s = receiveSubframe r s := by
  cases i with
  | sdcRdReq | sdcWrReq | sdcOutErr => exact .inl ⟨_, fun _ => rfl⟩
  | sdcRdResp | sdcWrEcho | sdcRdErr | sdcWrErr => exact .inr ⟨_, fun _ => rfl⟩
  | _ => cases h

/-- Settles O55: SCHED, MATCH, CYCLE and the sub-frame kinds each commute with forgetting the rates. -/
theorem ratesInfluenceNothing : Obligations.RatesInfluenceNothing := by
  rintro s i (rfl | ⟨f, rfl⟩ | ⟨a, rfl⟩ | h)
  · exact execSched_forgetRates s
  · exact receiveSubframe_forgetRates _ s
  · exact execCycle_forgetRates a s
  · rcases exec_of_encode h with ⟨r, e⟩ | ⟨r, e⟩
    · rw [e, e]; exact sendSubframe_forgetRates r s
    · rw [e, e]; exact receiveSubframe_forgetRates r s

end Sys2Proof.Machine
end

section
/-!
PROOFS of 10_state.md: the failure counter (R38). Two contexts that differ in the counter, and in the events that it
throttles, stay so under every step of a CYCLE.
-/

namespace Sys2Proof.Machine

/-- Two contexts equal but for the failure counter and the events, which extend the same history by the same events other
than the diagnostics of the counter. -/
def CountTwins (history : List Event) (c c' : Context) : Prop :=
  ∃ (n : Nat) (l l' : List Event), c.events = history ++ l ∧
    l.filter (!isCrcDiagnostic ·) = l'.filter (!isCrcDiagnostic ·) ∧
    c' = { c with crcFailCount := n, events := history ++ l' }

theorem CountTwins.of_count (c : Context) (n : Nat) : CountTwins c.events c { c with crcFailCount := n } :=
  ⟨n, [], [], (List.append_nil _).symm, rfl, by rw [List.append_nil]⟩

section

variable {history : List Event} {c c' : Context} (h : CountTwins history c c')
include h

/-! ### What twins read alike -/

theorem CountTwins.count : c'.count = c.count := by obtain ⟨_, _, _, _, _, rfl⟩ := h; rfl
theorem CountTwins.cursor : c'.cursor = c.cursor := by obtain ⟨_, _, _, _, _, rfl⟩ := h; rfl
theorem CountTwins.tx : c'.tx = c.tx := by obtain ⟨_, _, _, _, _, rfl⟩ := h; rfl
theorem CountTwins.transport : c'.transport = c.transport := by obtain ⟨_, _, _, _, _, rfl⟩ := h; rfl
theorem CountTwins.marked : c'.marked = c.marked := by obtain ⟨_, _, _, _, _, rfl⟩ := h; rfl
theorem CountTwins.item? (k : Nat) : c'.item? k = c.item? k := by obtain ⟨_, _, _, _, _, rfl⟩ := h; rfl

theorem CountTwins.scanSlots_eq (l : List Nat) : scanSlots c' l = scanSlots c l := by
  induction l with
  | nil => rfl
  | cons j js ih => rw [scanSlots, scanSlots, ih, h.item?]

theorem CountTwins.scan_eq : scan c' = scan c := by rw [scan, scan, h.count, h.cursor, h.scanSlots_eq]

/-! ### Operations that take twins to twins -/

/-- An update that neither reads nor writes the counter and the events. -/
theorem CountTwins.update (U : Context → Context) (he : ∀ c, (U c).events = c.events)
    (hU : ∀ c n es, U { c with crcFailCount := n, events := es } = { U c with crcFailCount := n, events := es }) :
    CountTwins history (U c) (U c') := by
  obtain ⟨n, l, l', hl, hf, rfl⟩ := h
  exact ⟨n, l, l', (he c).trans hl, hf, hU c n _⟩

theorem CountTwins.putItem (k : Nat) (it : Item) : CountTwins history (c.putItem k it) (c'.putItem k it) :=
  h.update (·.putItem k it) (fun _ => rfl) fun _ _ _ => rfl

theorem CountTwins.setFault (f : Option FaultReason) : CountTwins history { c with fault := f } { c' with fault := f } :=
  h.update ({ · with fault := f }) (fun _ => rfl) fun _ _ _ => rfl

theorem CountTwins.setRx (m : Memory) : CountTwins history { c with rx := some m } { c' with rx := some m } :=
  h.update ({ · with rx := some m }) (fun _ => rfl) fun _ _ _ => rfl

theorem CountTwins.setCrcFailCount (m m' : Nat) :
    CountTwins history { c with crcFailCount := m } { c' with crcFailCount := m' } := by
  obtain ⟨n, l, l', hl, hf, rfl⟩ := h
  exact ⟨m', l, l', hl, hf, rfl⟩

theorem CountTwins.append (e : Event) : CountTwins history (c.append e) (c'.append e) := by
  obtain ⟨n, l, l', hl, hf, rfl⟩ := h
  refine ⟨n, l ++ [e], l' ++ [e], ?_, ?_, ?_⟩
  · rw [Context.append_events, hl, List.append_assoc]
  · rw [List.filter_append, List.filter_append, hf]
  · simp [Context.append]

/-- The exchange of the frame that both twins hold. -/
theorem CountTwins.append_exchange (a : Answer) :
    CountTwins history (c.append (.exchange c.tx.frame a)) (c'.append (.exchange c'.tx.frame a)) := by
  rw [h.tx]
  exact h.append _

theorem CountTwins.emitIf (b : Bool) (d : Diag) : CountTwins history (c.emitIf b d) (c'.emitIf b d) := by
  cases b
  · exact h
  · exact h.append (.diag d)

/-- A diagnostic of the counter may be appended to one twin and not to the other. -/
theorem CountTwins.emitIf_crc (b b' : Bool) {d d' : Diag} (hd : isCrcDiagnostic (.diag d) = true)
    (hd' : isCrcDiagnostic (.diag d') = true) : CountTwins history (c.emitIf b d) (c'.emitIf b' d') := by
  obtain ⟨n, l, l', hl, hf, rfl⟩ := h
  refine ⟨n, l ++ (if b then [.diag d] else []), l' ++ (if b' then [.diag d'] else []), ?_, ?_, ?_⟩
  · cases b <;> simp [hl]
  · cases b <;> cases b' <;> simp [List.filter_append, hf, hd, hd']
  · cases b <;> cases b' <;> simp [Context.emitIf, Context.emit, Context.append]

/-! ### The steps of a CYCLE -/

theorem stamp_countTwins : CountTwins history (stamp c) (stamp c') :=
  h.update stamp (fun _ => rfl) fun _ _ _ => rfl

theorem busyStep_countTwins (p : Params) (it : Item) : CountTwins history (busyStep p c it) (busyStep p c' it) := by
  rw [busyStep, busyStep, h.cursor]
  exact (h.putItem _ _).emitIf _ _

theorem dispatch_countTwins (j : Nat) (it : Item) : CountTwins history (dispatch c j it) (dispatch c' j it) :=
  h.update (dispatch · j it) (fun _ => rfl) fun _ _ _ => rfl

theorem sched_countTwins {p : Params} {d : Context} (hs : sched p c = .ok d) :
    ∃ d', sched p c' = .ok d' ∧ CountTwins history d d' := by
  rcases sched_ok hs with ⟨h0, rfl⟩ | ⟨hlt, cur, hcur, ⟨hb, rfl⟩ | ⟨hb, hscan⟩⟩
  · exact ⟨c', sched_empty (h.count.trans h0), h⟩
  · rw [← h.item?, ← h.cursor] at hcur
    rw [← h.cursor, ← h.count] at hlt
    exact ⟨_, sched_busy hlt hcur (by simpa [Item.inFlight] using hb), busyStep_countTwins h p cur⟩
  · rw [← h.item?, ← h.cursor] at hcur
    rw [← h.cursor, ← h.count] at hlt
    have hb : cur.busyCycles = 0 := by simpa [Item.inFlight] using hb
    rcases hscan with ⟨j, it, hq, rfl⟩ | ⟨hq, rfl⟩
    · exact ⟨_, sched_scan hlt hcur hb (h.scan_eq.trans hq), dispatch_countTwins h j it⟩
    · exact ⟨_, sched_scan hlt hcur hb (h.scan_eq.trans hq), h⟩

theorem sched_fault_countTwins {p : Params} (hs : sched p c = .error .cursorOutOfRange) :
    sched p c' = .error .cursorOutOfRange := by
  rw [sched_fault_iff, h.count, h.cursor]
  exact sched_fault_iff.mp hs

theorem accept_countTwins (it : Item) (r : SdcRec) : CountTwins history (accept c it r) (accept c' it r) :=
  h.update (accept · it r) (fun _ => rfl) fun _ _ _ => rfl

theorem matchItem_countTwins (it : Item) (r : SdcRec) : CountTwins history (matchItem c it r) (matchItem c' it r) := by
  rw [matchItem, matchItem, h.cursor]
  split
  · exact h
  split
  · exact h
  exact accept_countTwins (h.emitIf _ _) it r

theorem matchRec_countTwins {r : SdcRec} {d : Context} (hm : matchRec c r = .ok d) :
    ∃ d', matchRec c' r = .ok d' ∧ CountTwins history d d' := by
  rw [matchRec] at hm
  rw [matchRec, h.count, h.cursor, h.item?]
  split at hm
  · next h0 => cases hm; exact ⟨c', if_pos h0, h⟩
  next h0 =>
  rw [if_neg h0]
  split at hm
  · cases hm
  · next it hit => cases hm; exact ⟨_, rfl, matchItem_countTwins h it r⟩

/-- R144: a frame that is not valid counts, and emits CrcMismatch as the counter says. -/
theorem reject_countTwins (p : Params) (f : List Byte) : CountTwins history (c.reject p f) (c'.reject p f) :=
  ((h.append_exchange _).setCrcFailCount _ _).emitIf_crc _ _ rfl rfl

/-- R145: a valid frame ends the count, and emits CrcRecovered as the counter says. -/
theorem receive_countTwins (f : List Byte) : CountTwins history (c.receive f) (c'.receive f) :=
  (((h.append_exchange _).emitIf_crc _ _ rfl rfl).setCrcFailCount 0 0).setRx _

end

/-- R142 to R145 on twins: the same result, and the counter 0 after OK. -/
theorem exchange_countTwins {history : List Event} {a : Answer} {s t : State} {c' : Context}
    (h : CountTwins history s.ctx c') (he : exchange a s = .next t) :
    ∃ d', exchange a (s.withCtx c') = .next (t.withCtx d') ∧ CountTwins history t.ctx d' ∧
      (t.result = some .ok → d'.crcFailCount = 0) := by
  cases a with
  | fail =>
    cases he
    exact ⟨_, rfl, h.append_exchange .fail, nofun⟩
  | bytes f =>
    cases hv : validate f
    · rw [exchange_of_invalid hv] at he
      cases he
      exact ⟨_, exchange_of_invalid hv _, reject_countTwins h s.params f, nofun⟩
    · rw [exchange_of_valid hv] at he
      rcases andThen_next he with ⟨d, hd, he⟩ | ⟨hd, _⟩
      · cases he
        obtain ⟨d', hd', htwins⟩ := matchRec_countTwins (receive_countTwins h f) hd
        obtain ⟨_, _, _, hcrc, _, _, _⟩ := matchRec_keeps hd'
        refine ⟨d', ?_, htwins, fun _ => hcrc⟩
        rw [exchange_of_valid hv, State.withCtx_ctx, hd']
        rfl
      · exact absurd hd (matchRec_ne_cursorOutOfRange _ _)

theorem execCycle_of_opened {s : State} (hm : s.ctx.marked = false) (ho : s.ctx.transport = .opened) (a : Answer) :
    execCycle a s = s.andThen (sched s.params s.ctx) fun u => exchange a (u.withCtx (stamp u.ctx)) :=
  (unlessMarked_of_unmarked hm _).trans (if_neg (not_not_intro ho))

/-- A CYCLE on twins: the same result, and the counter 0 after OK. -/
theorem execCycle_countTwins {history : List Event} {a : Answer} {s t : State} {c' : Context}
    (h : CountTwins history s.ctx c') (hc : execCycle a s = .next t) :
    ∃ d', execCycle a (s.withCtx c') = .next (t.withCtx d') ∧ CountTwins history t.ctx d' ∧
      (t.result = some .ok → d'.crcFailCount = 0) := by
  rcases execCycle_next hc with ⟨hm, rfl⟩ | ⟨hm, ho, rfl⟩ | ⟨hm, ho, hs⟩
  · exact ⟨c', unlessMarked_of_marked (s := s.withCtx c') (h.marked.trans hm) _, h, nofun⟩
  all_goals rw [← h.marked] at hm; rw [← h.transport] at ho
  · exact ⟨c', (unlessMarked_of_unmarked (s := s.withCtx c') hm _).trans (if_pos ho), h, nofun⟩
  rw [execCycle_of_opened (s := s.withCtx c') hm ho]
  rcases hs with ⟨hs, rfl⟩ | ⟨c, hs, he⟩
  · refine ⟨_, ?_, h.setFault _, nofun⟩
    rw [State.withCtx_params, State.withCtx_ctx, sched_fault_countTwins h hs]
    rfl
  · obtain ⟨d, hd, htwins⟩ := sched_countTwins h hs
    rw [State.withCtx_params, State.withCtx_ctx, hd]
    exact exchange_countTwins (s := s.withCtx (stamp c)) (stamp_countTwins htwins) he

/-- Settles O56: a context and the same with another count are twins, and a CYCLE keeps them so. -/
theorem crcFailCountOnlyThrottles : Obligations.CrcFailCountOnlyThrottles := by
  intro s t n a h
  obtain ⟨_, he, ⟨m, l, l', hl, hf, rfl⟩, hok⟩ := execCycle_countTwins (.of_count s.ctx n) h
  exact ⟨_, l, l', he, rfl, hl, rfl, hf, hok⟩

end Sys2Proof.Machine
end

section
/-!
PROOFS of 20_memory.md: the host's accesses (R56) and the order of operations (R58). A host operation that leaves no mark ran
what its checks admitted; a write is then idempotent because its check admits the same after it and its storage already holds
what it stores.
-/

namespace Sys2Proof.Machine

/-! ### Storing again what is stored -/

section Cells

variable {α : Type}

theorem cellPut_put (k : Nat) (v : α) (m : List (Nat × α)) : cellPut k v (cellPut k v m) = cellPut k v m := by
  induction m with
  | nil => simp [cellPut]
  | cons c rest ih =>
    obtain ⟨j, w⟩ := c
    rcases lt_trichotomy k j with h | h | h
    · simp [cellPut, h]
    · simp [cellPut, h]
    · simp [cellPut, h.not_gt, h.ne', ih]

theorem cellDrop_eq_self {k : Nat} {m : List (Nat × α)} (h : cellGet k m = none) : cellDrop k m = m := by
  induction m with
  | nil => rfl
  | cons c rest ih =>
    simp only [cellGet] at h
    split at h
    · cases h
    · next hk => rw [cellDrop, if_neg hk, ih h]

theorem cellDrop_drop {m : List (Nat × α)} (h : Rising m) (k : Nat) : cellDrop k (cellDrop k m) = cellDrop k m :=
  cellDrop_eq_self (by rw [cellGet_drop h, if_pos rfl])

end Cells

theorem Memory.write_write {m : Memory} (h : m.wf) (o : Nat) (b : Byte) : (m.write o b).write o b = m.write o b := by
  unfold Memory.write
  split
  · exact cellDrop_drop h.1 o
  · exact cellPut_put o b m

theorem Context.putTx_putTx {c : Context} (h : c.tx.wf) (o : Nat) (b : Byte) : (c.putTx o b).putTx o b = c.putTx o b :=
  congrArg (fun tx => { c with tx := tx }) (Memory.write_write h o b)

theorem Context.putItem_putItem (c : Context) (k : Nat) (it : Item) : (c.putItem k it).putItem k it = c.putItem k it :=
  congrArg (fun items => { c with items := items }) (cellPut_put k it c.items)

theorem Item.setField_setField (it : Item) (field : ItemField) (v : Nat) :
    (it.setField field v).setField field v = it.setField field v := by
  cases field <;> rfl

theorem checkSlot_putItem {p : Params} {c : Context} {k : Nat} (it : Item) (hk : k < p.sdcCapacity) :
    checkSlot p (c.putItem k it) k = .ok it := by
  simp [checkSlot, hk.not_ge]

/-- H.WRITEITEM's checks look at the field and its value, and at the slot only for its item (45_host.md R155). -/
theorem checkWriteItem_ok_iff {p : Params} {c : Context} {k : Nat} {field : ItemField} {v : Nat} {it' : Item} :
    checkWriteItem p c k field v = .ok it' ↔
      (¬ (field = .busyCycles ∧ v ≠ 0) ∧ fieldAdmits field v = true) ∧
        ∃ it, checkSlot p c k = .ok it ∧ it' = it.setField field v := by
  unfold checkWriteItem
  cases checkSlot p c k with
  | error why => simp
  | ok it =>
    by_cases hb : field = .busyCycles ∧ v ≠ 0
    · simp [hb]
    · cases fieldAdmits field v <;> simp [hb, eq_comm]

/-- H.WRITEITEM's checks admit the written item for the write that left it. -/
theorem checkWriteItem_putItem {p : Params} {c : Context} {k : Nat} {field : ItemField} {v : Nat} {it : Item}
    (h : checkWriteItem p c k field v = .ok it) : checkWriteItem p (c.putItem k it) k field v = .ok it := by
  obtain ⟨hadmits, old, hold, rfl⟩ := checkWriteItem_ok_iff.mp h
  exact checkWriteItem_ok_iff.mpr
    ⟨hadmits, _, checkSlot_putItem _ (checkSlot_ok hold).1, (old.setField_setField field v).symm⟩

/-! ### Host operations that leave no mark -/

section

variable {α : Type} {s t : State} {check : State → Except RefuseReason α} {run : State → α → State}

/-- A host operation that leaves no mark found none and ran what its checks admit. -/
theorem checked_of_unmarked (h : s.unlessMarked (fun s => s.checked (check s) (run s)) = .next t)
    (ht : t.ctx.marked = false) : ∃ a, check s = .ok a ∧ t = run s a := by
  rcases unlessMarked_next h with ⟨hm, rfl⟩ | ⟨_, h⟩
  · exact absurd (hm.symm.trans ht) (by decide)
  rcases checked_next h with h | ⟨why, _, rfl⟩
  · exact h
  · exact absurd ht (by simp [Context.marked])

/-- A host write is idempotent when its checks admit the same after it and storing it again changes nothing. -/
theorem checked_idempotent (h : s.unlessMarked (fun s => s.checked (check s) (run s)) = .next t)
    (ht : t.ctx.marked = false) (hcheck : ∀ a, check s = .ok a → check (run s a) = .ok a)
    (hrun : ∀ a, run (run s a) a = run s a) :
    t.unlessMarked (fun s => s.checked (check s) (run s)) = .next t := by
  obtain ⟨a, ha, rfl⟩ := checked_of_unmarked h ht
  rw [unlessMarked_of_unmarked ht, hcheck a ha]
  exact congrArg Host.Outcome.next (hrun a)

/-- A host read that leaves no mark only returns a value. -/
theorem read_keeps_ctx {result : α → Result}
    (h : s.unlessMarked (fun s => s.checked (check s) fun a => s.return (result a)) = .next t)
    (ht : t.ctx.marked = false) : t.ctx = s.ctx := by
  obtain ⟨_, _, rfl⟩ := checked_of_unmarked (run := fun s a => s.return (result a)) h ht
  rfl

end

theorem answer_keeps_ctx {s t : State} {r : Result} (h : s.answer r = .next t) : t.ctx = s.ctx := by
  obtain ⟨_, rfl⟩ := answer_next h
  rfl

theorem execHSetCount_idempotent {s t : State} {n : Nat} (h : execHSetCount n s = .next t) (ht : t.ctx.marked = false) :
    execHSetCount n t = .next t :=
  checked_idempotent (check := fun s => checkCount s.params s.ctx n) h ht (fun _ hc => hc) fun _ => rfl

theorem execHConfig_idempotent {s t : State} {k : Nat} {raw : RawItem} (h : execHConfig k raw s = .next t)
    (ht : t.ctx.marked = false) : execHConfig k raw t = .next t :=
  checked_idempotent (check := fun s => checkConfig s.params k raw) h ht (fun _ hc => hc) fun it =>
    congrArg (fun c => (s.withCtx c).return .ok) (s.ctx.putItem_putItem k it)

theorem execHWriteItem_idempotent {s t : State} {k : Nat} {field : ItemField} {v : Nat}
    (h : execHWriteItem k field v s = .next t) (ht : t.ctx.marked = false) : execHWriteItem k field v t = .next t :=
  checked_idempotent (check := fun s => checkWriteItem s.params s.ctx k field v) h ht
    (fun _ hc => checkWriteItem_putItem hc) fun it =>
    congrArg (fun c => (s.withCtx c).return .ok) (s.ctx.putItem_putItem k it)

theorem execHWriteTx_idempotent {s t : State} {o b : Nat} (hw : s.ctx.tx.wf) (h : execHWriteTx o b s = .next t)
    (ht : t.ctx.marked = false) : execHWriteTx o b t = .next t :=
  checked_idempotent (check := fun _ => checkWriteTx o b) h ht (fun _ hc => hc) fun v =>
    congrArg (fun c => (s.withCtx c).return .ok) (Context.putTx_putTx hw o v)

/-- Settles O57: a read or CRC16 only returns a value, and each kind of write is idempotent. -/
theorem readsArePureAndWritesIdempotent : Obligations.ReadsArePureAndWritesIdempotent := by
  constructor
  · rintro s t i (⟨bs, rfl⟩ | ⟨k, rfl⟩ | rfl | ⟨o, rfl⟩ | ⟨o, rfl⟩) h ht
    · exact answer_keeps_ctx h
    · exact read_keeps_ctx (check := fun s => checkSlot s.params s.ctx k) h ht
    · exact answer_keeps_ctx h
    · exact read_keeps_ctx (check := fun s => checkReadTx s.ctx o) h ht
    · exact read_keeps_ctx (check := fun s => checkReadRx s.ctx o) h ht
  · rintro s t i (⟨n, rfl⟩ | ⟨k, raw, rfl⟩ | ⟨k, field, v, rfl⟩ | ⟨o, b, rfl⟩) ⟨htx, _, _⟩ h ht
    · exact execHSetCount_idempotent h ht
    · exact execHConfig_idempotent h ht
    · exact execHWriteItem_idempotent h ht
    · exact execHWriteTx_idempotent htx h ht

/-! ### The request a step runs -/

/-- Every instruction reaches the block on a port or inside a CYCLE (30_encoding.md R77). -/
theorem arrival (i : Instr) : Laws.Arrival.Statement i := by
  cases i with
  | sdcRdReq | sdcWrReq | sdcOutErr | sdcRdResp | sdcWrEcho | sdcRdErr | sdcWrErr =>
    exact Laws.Arrival.of_subframe rfl rfl
  | sched => exact Laws.Arrival.sched
  | stamp => exact Laws.Arrival.stamp
  | validate f => exact Laws.Arrival.validate f
  | matchSdc f => exact Laws.Arrival.matchSdc f
  | _ => exact Laws.Arrival.of_port rfl rfl

theorem portOf_eq_none_iff (i : Instr) : portOf i = none ↔ RunsInsideCycle i := (arrival i).1

theorem fetchRequest_of_port {i : Instr} {p : Port} (hp : portOf i = some p) (hw : i.wellFormed = true) :
    fetchRequest (.operation p i) = .ok i := by
  simp [fetchRequest, hp, hw]

theorem fetchRequest_of_inside {i : Instr} (h : RunsInsideCycle i) (p : Port) :
    fetchRequest (.operation p i) = .error .wrongPort := by
  simp [fetchRequest, (portOf_eq_none_iff i).mpr h]

section

variable {s : State} {r : Request} {rest : List Request}

theorem step_of_fetched {i : Instr} (hs : s.pending = r :: rest) (hr : fetchRequest r = .ok i) :
    step s = exec i { s with pending := rest } := by
  simp [step, hs, hr]

theorem step_of_not_fetched {why : Refusal} (hs : s.pending = r :: rest) (hr : fetchRequest r = .error why) :
    step s = .refused why := by
  simp [step, hs, hr]

end

theorem step_of_no_request {s : State} (hs : s.pending = []) : step s = .next s := by
  simp [step, hs]

/-- Settles O60: the port an operation arrives on decides whether its request is fetched, and a step runs what it fetched. -/
theorem stepRunsTheRequestedOperation : Obligations.StepRunsTheRequestedOperation := by
  refine ⟨fun i => ?_, fun i p hw hp s rest hs => step_of_fetched hs (fetchRequest_of_port hp hw),
    fun i p hi s rest hs => step_of_not_fetched hs (fetchRequest_of_inside hi p), fun s => step_of_no_request⟩
  cases hp : portOf i with
  | none => exact .inr ((portOf_eq_none_iff i).mp hp)
  | some p => exact .inl ⟨p, rfl⟩

end Sys2Proof.Machine
end

section
/-!
PROOFS of 30_encoding.md: the service sub-frame. A kind is the same thing as a direction with a sub-frame record; the record and
its four bytes determine each other; the row of R76's table that a pattern matches is the one of its write and error bits.
-/

namespace Sys2Proof.Machine

/-! ### The record and its bytes -/

/-- The fields that W1 packs read back from it (30_encoding.md R71). -/
theorem unpack_sdcWord1 (r : SdcRec) :
    (sdcWord1 r).extractLsb' 0 12 = r.address ∧ (sdcWord1 r).getLsbD 12 = r.write ∧
      (sdcWord1 r).getLsbD 13 = r.error ∧ (sdcWord1 r).extractLsb' 14 2 = r.reserved := by
  have hbit : ∀ i, (sdcWord1 r).getLsbD i =
      if i < 12 then r.address.getLsbD i else if i = 12 then r.write else if i = 13 then r.error
      else r.reserved.getLsbD (i - 14) := getLsbD_sdcWord1 r.reserved r.error r.write r.address
  refine ⟨BitVec.eq_of_getLsbD_eq fun i hi => ?_, hbit 12, hbit 13, BitVec.eq_of_getLsbD_eq fun i hi => ?_⟩
  · simp [hbit, hi]
  · simp [hbit, hi, show ¬ 14 + i < 12 by omega, show 14 + i ≠ 12 by omega, show 14 + i ≠ 13 by omega]

/-- R116: SDC.DEC gives back the record SDC.ENC wrote. -/
theorem decodeSdc_encodeSdc (r : SdcRec) : decodeSdc (encodeSdc r) = r := by
  have hvalue : le16 (encodeSdc r) 0 = r.value := le16_leBytes16 r.value _
  have hword : le16 (encodeSdc r) 2 = sdcWord1 r := le16_leBytes16 (sdcWord1 r) []
  obtain ⟨haddress, hwrite, herror, hreserved⟩ := unpack_sdcWord1 r
  simp only [decodeSdc, hvalue, hword, haddress, hwrite, herror, hreserved]

/-- R71, R111: the fields of a sub-frame by byte. -/
theorem decodeSdc_bytes (b0 b1 b2 b3 : Byte) : decodeSdc [b0, b1, b2, b3] =
    { value := b1 ++ b0
      address := b3.extractLsb' 0 4 ++ b2
      write := b3.getLsbD 4
      error := b3.getLsbD 5
      reserved := b3.extractLsb' 6 2 } := by
  have hbit := getLsbD_word16 b3 b2
  have haddress : (b3 ++ b2 : Word16).extractLsb' 0 12 = b3.extractLsb' 0 4 ++ b2 := by
    apply BitVec.eq_of_getLsbD_eq
    intro i hi
    rw [BitVec.getLsbD_extractLsb', hbit, BitVec.getLsbD_append]
    grind
  have hreserved : (b3 ++ b2 : Word16).extractLsb' 14 2 = b3.extractLsb' 6 2 := by
    apply BitVec.eq_of_getLsbD_eq
    intro i hi
    rw [BitVec.getLsbD_extractLsb', hbit, BitVec.getLsbD_extractLsb']
    grind
  show SdcRec.mk (b1 ++ b0) ((b3 ++ b2 : Word16).extractLsb' 0 12) ((b3 ++ b2 : Word16).getLsbD 12)
    ((b3 ++ b2 : Word16).getLsbD 13) ((b3 ++ b2 : Word16).extractLsb' 14 2) = _
  rw [haddress, hreserved, hbit, hbit]
  rfl

/-- R76: the fields of a sub-frame by bit of the pattern S = LE32(frame, 0). -/
theorem decodeSdc_word (b0 b1 b2 b3 : Byte) (S : Word32) (hS : S = b3 ++ b2 ++ b1 ++ b0) :
    decodeSdc [b0, b1, b2, b3] =
      ⟨S.extractLsb' 0 16, S.extractLsb' 16 12, S.getLsbD 28, S.getLsbD 29, S.extractLsb' 30 2⟩ := by
  have hbit := hS ▸ getLsbD_word32 b3 b2 b1 b0
  rw [decodeSdc_bytes, SdcRec.mk.injEq]
  refine ⟨BitVec.eq_of_getLsbD_eq fun i hi => ?valueBits, BitVec.eq_of_getLsbD_eq fun i hi => ?addressBits,
    (hbit 28).symm, (hbit 29).symm, BitVec.eq_of_getLsbD_eq fun i hi => ?reservedBits⟩
  case valueBits =>
    rw [BitVec.getLsbD_extractLsb', hbit, getLsbD_word16]
    grind
  case addressBits =>
    rw [BitVec.getLsbD_extractLsb', hbit, BitVec.getLsbD_append]
    grind
  case reservedBits =>
    rw [BitVec.getLsbD_extractLsb', BitVec.getLsbD_extractLsb', hbit]
    grind

/-! ### The kind and its record -/

/-- R76: a sub-frame kind is its direction with its record. -/
theorem sdcFields_eq_some_iff {i : Instr} {d : Direction} {r : SdcRec} :
    i.sdcFields = some (d, r) ↔ i = sdcKind d r := by
  constructor
  · intro h
    cases i <;> cases h <;> rfl
  · rintro rfl
    obtain ⟨value, address, write, error, reserved⟩ := r
    cases d <;> cases write <;> cases error <;> rfl

theorem encode_eq_some_iff {i : Instr} {d : Direction} {bs : List Byte} :
    encode i = some (d, bs) ↔ ∃ r, i = sdcKind d r ∧ bs = encodeSdc r := by
  simp only [encode, Option.map_eq_some_iff, Prod.exists, Prod.mk.injEq, sdcFields_eq_some_iff]
  constructor
  · rintro ⟨_, r, h, rfl, rfl⟩
    exact ⟨r, h, rfl⟩
  · rintro ⟨r, h, rfl⟩
    exact ⟨d, r, h, rfl, rfl⟩

theorem decodeSubframe_encodeSdc (d : Direction) (r : SdcRec) (rest : List Byte) :
    decodeSubframe d (encodeSdc r ++ rest) = .ok (sdcKind d r, rest) :=
  congrArg (fun r' => Except.ok (sdcKind d r', rest)) (decodeSdc_encodeSdc r)

/-- Settles O1: the bytes hold the record, and the record with the direction is the kind. -/
theorem subframeDecodeEncode : Obligations.SubframeDecodeEncode := by
  intro i d bs rest h
  obtain ⟨r, rfl, rfl⟩ := encode_eq_some_iff.mp h
  exact decodeSubframe_encodeSdc d r rest

/-! ### The rows of R76's table -/

/-- The pattern whose write and error bits, S[28] and S[29], are the given ones and every other bit is 0. -/
def kindBits : Bool → Bool → Word32
  | false, false => 0x00000000#32
  | true, false => 0x10000000#32
  | false, true => 0x20000000#32
  | true, true => 0x30000000#32

/-- The match and mask of the row for a direction and its write and error bits (30_encoding.md R76). -/
def rowOf : Direction → Bool → Bool → Word32 × Word32
  | .outbound, _, true => (kindBits false true, kindBits false true)
  | .outbound, write, false => (kindBits write false, kindBits true true)
  | .inbound, write, error => (kindBits write error, kindBits true true)

theorem getLsbD_kindBits (write error : Bool) {i : Nat} (hi : i < 32) :
    (kindBits write error).getLsbD i = if i = 28 then write else if i = 29 then error else false := by
  have h : ∀ (w e : Bool) (j : Fin 32),
      (kindBits w e).getLsbD j = if j.val = 28 then w else if j.val = 29 then e else false := by decide
  exact h write error ⟨i, hi⟩

/-- Of a pattern such a mask sees the write and error bits only. -/
theorem and_kindBits (S : Word32) (write error : Bool) :
    S &&& kindBits write error = kindBits (S.getLsbD 28) (S.getLsbD 29) &&& kindBits write error := by
  apply BitVec.eq_of_getLsbD_eq
  intro i hi
  rw [BitVec.getLsbD_and, BitVec.getLsbD_and, getLsbD_kindBits _ _ hi, getLsbD_kindBits _ _ hi]
  grind

theorem tableRow_sdcKind (d : Direction) (r : SdcRec) : tableRow (sdcKind d r) = some (d, rowOf d r.write r.error) := by
  obtain ⟨value, address, write, error, reserved⟩ := r
  cases d <;> cases write <;> cases error <;> rfl

/-- Only sub-frame kinds have a row. -/
theorem sdcKind_of_tableRow {i : Instr} {d : Direction} {row : Word32 × Word32} (h : tableRow i = some (d, row)) :
    ∃ r, i = sdcKind d r := by
  cases i <;> cases h <;> exact ⟨_, sdcFields_eq_some_iff.mp rfl⟩

theorem kindBits_matches_rowOf_iff (d : Direction) : ∀ write error w e : Bool,
    kindBits w e &&& (rowOf d write error).2 = (rowOf d write error).1 ↔ rowOf d write error = rowOf d w e := by
  cases d <;> decide

/-- R76: of the rows of a direction a pattern matches the one of its own write and error bits, and no other. -/
theorem matches_rowOf_iff (S : Word32) (d : Direction) (write error : Bool) :
    S &&& (rowOf d write error).2 = (rowOf d write error).1 ↔
      rowOf d write error = rowOf d (S.getLsbD 28) (S.getLsbD 29) := by
  have hmask : (rowOf d write error).2 = kindBits (d = .inbound || !error) true := by
    cases d <;> cases error <;> rfl
  rw [hmask, and_kindBits, ← hmask]
  exact kindBits_matches_rowOf_iff d write error _ _

/-- Settles O2: the kind is that of the pattern's own bits; a row that matches is theirs, and an encoding decodes to its kind. -/
theorem everyPatternIsOneKind : Obligations.EveryPatternIsOneKind := by
  refine ⟨fun d b0 b1 b2 b3 => ?_, rfl, rfl⟩
  intro S
  have hfields := decodeSdc_word b0 b1 b2 b3 S rfl
  have hdecode : decodeSubframe d [b0, b1, b2, b3] = .ok (sdcKind d (decodeSdc [b0, b1, b2, b3]), []) := rfl
  rw [hfields] at hdecode
  refine ⟨_, _, _, hdecode, tableRow_sdcKind d _, (matches_rowOf_iff S d _ _).mpr rfl, sdcFields_eq_some_iff.mpr rfl, ?_, ?_⟩
  · intro j m k hrow hmatch
    obtain ⟨r, rfl⟩ := sdcKind_of_tableRow hrow
    have hr : rowOf d r.write r.error = (m, k) := by simpa [tableRow_sdcKind] using hrow
    rw [← hr]
    exact (matches_rowOf_iff S d _ _).mp (by rw [hr]; exact hmatch)
  · intro j henc
    have hj := subframeDecodeEncode j d _ [] henc
    rw [List.append_nil, hdecode] at hj
    cases hj
    rfl

/-- Settles O3: each word is decoded by evaluation. -/
theorem decodedWords : Obligations.DecodedWords := ⟨rfl, rfl, rfl, rfl, rfl⟩

/-! ### The frames a CYCLE sends -/

/-- R78, R79: an outbound sub-frame with error bit 0 and reserved bits 00 is a request, never SDC.OUT.ERR. -/
theorem decodeSubframe_outbound_clean {b0 b1 b2 b3 : Byte} (h : b3.extractLsb' 5 3 = 0#3) :
    ∃ (v : Word16) (a : RegAddr) (w : Bool), decodeSubframe .outbound [b0, b1, b2, b3] =
      .ok (if w then .sdcWrReq v a 0 else .sdcRdReq v a 0, []) := by
  have hbit : ∀ i, i < 3 → b3.getLsbD (5 + i) = false := fun i hi => by
    simpa [hi] using congrArg (·.getLsbD i) h
  have herror : b3.getLsbD 5 = false := hbit 0 (by decide)
  have hreserved : b3.extractLsb' 6 2 = 0 := by
    apply BitVec.eq_of_getLsbD_eq
    intro i hi
    simpa [hi, ← Nat.add_assoc] using hbit (1 + i) (by omega)
  refine ⟨b1 ++ b0, b3.extractLsb' 0 4 ++ b2, b3.getLsbD 4, ?_⟩
  show Except.ok (sdcKind .outbound (decodeSdc [b0, b1, b2, b3]), []) = _
  rw [decodeSdc_bytes, herror, hreserved]
  rfl

/-- Settles O49: the invariant holds along the run, and its history holds only whole, stamped, clean frames. -/
theorem everySentFrameIsStampedAndClean : Obligations.EverySentFrameIsStampedAndClean := by
  intro requests n t h sent answer hmem
  obtain ⟨⟨hlen, hvalid, hclean⟩, -⟩ := (run_reset_inv h).historyOk sent answer hmem
  refine ⟨hlen, hvalid, ?_⟩
  match sent, hlen with
  | b0 :: b1 :: b2 :: b3 :: rest, _ => exact decodeSubframe_outbound_clean hclean

end Sys2Proof.Machine
end

section
/-!
PROOFS of 30_encoding.md: the pseudo-operations (R84). Each expands to one or two host writes; a write of an item or of a byte of
process data has one rule that says when it completes and one that says what it keeps, and a run takes the writes in turn.
-/

namespace Sys2Proof.Machine

/-! ### Runs of requests -/

theorem run_load_nil (s : State) : core.run 0 (s.load []) = .next s :=
  congrArg Host.Outcome.next (show s.load [] = s by simp [State.load])

/-- R58, R77: a run from a machine with no request waiting takes the first operation it is given. -/
theorem run_load_cons {s t : State} {i : Instr} {p : Port} (hs : s.pending = []) (hp : portOf i = some p)
    (hw : i.wellFormed = true) {ops : List Instr} (h : exec i (s.load ops) = .next t) (n : Nat) :
    core.run (n + 1) (s.load (i :: ops)) = core.run n t := by
  have hpending : (s.load (i :: ops)).pending = .operation p i :: ops.filterMap requestOf := by
    simp [State.load, hs, requestOf, hp]
  have hrest : { s.load (i :: ops) with pending := ops.filterMap requestOf } = s.load ops := by
    simp [State.load, hs]
  have hstep : step (s.load (i :: ops)) = .next t := by
    rw [step_of_fetched hpending (fetchRequest_of_port hp hw), hrest, h]
  simp only [Host.Core.run, show core.step (s.load (i :: ops)) = .next t from hstep]

/-! ### What a host write leaves -/

theorem KeepsAllBut.trans {parts : List Part} {s t u : State} (hst : KeepsAllBut parts s t) (htu : KeepsAllBut parts t u) :
    KeepsAllBut parts s u := by
  intro p hp
  have h1 := hst p hp
  have h2 := htu p hp
  cases p with
  | slots => exact fun k => (h2 k).trans (h1 k)
  | bytes => exact fun o => (h2 o).trans (h1 o)
  | _ => exact Eq.trans h2 h1

/-- The machine after a host write that put an item into a slot. -/
def State.putItemOk (s : State) (k : Nat) (it : Item) : State := (s.withCtx (s.ctx.putItem k it)).return .ok

/-- The machine after a host write that stored a byte of the outbound frame. -/
def State.putTxOk (s : State) (o : Nat) (b : Byte) : State := (s.withCtx (s.ctx.putTx o b)).return .ok

theorem keepsAllBut_putItemOk (s : State) (k : Nat) (it : Item) : KeepsAllBut [.slots] s (s.putItemOk k it) := by
  intro p hp
  cases p with
  | slots => simp at hp
  | bytes => exact fun _ => rfl
  | _ => rfl

theorem keepsAllBut_putTxOk (s : State) (o : Nat) (b : Byte) : KeepsAllBut [.bytes] s (s.putTxOk o b) := by
  intro p hp
  cases p with
  | bytes => simp at hp
  | slots => exact fun _ => rfl
  | _ => rfl

theorem txByte_putTxOk {s : State} (h : s.ctx.tx.wf) (o : Nat) (b : Byte) (a : Nat) :
    (s.putTxOk o b).ctx.txByte a = if a = o then b else s.ctx.txByte a := Context.txByte_putTx h o b a

/-- One slot holds the given item after and everything else reads the same. -/
def WritesSlot (k : Nat) (it : Item) (s t : State) : Prop :=
  t.ctx.item? k = some it ∧ (∀ j, j ≠ k → t.ctx.item? j = s.ctx.item? j) ∧ KeepsAllBut [.slots] s t

theorem WritesSlot.trans {k : Nat} {it it' : Item} {s t u : State} (hst : WritesSlot k it s t)
    (htu : WritesSlot k it' t u) : WritesSlot k it' s u := by
  obtain ⟨-, hother, hkeeps⟩ := hst
  obtain ⟨hslot', hother', hkeeps'⟩ := htu
  exact ⟨hslot', fun j hj => (hother' j hj).trans (hother j hj), hkeeps.trans hkeeps'⟩

theorem writesSlot_putItemOk (s : State) (k : Nat) (it : Item) : WritesSlot k it s (s.putItemOk k it) := by
  have hitem : ∀ j, (s.putItemOk k it).ctx.item? j = if j = k then some it else s.ctx.item? j :=
    Context.item?_putItem s.ctx k it
  exact ⟨(hitem k).trans (if_pos rfl), fun j hj => (hitem j).trans (if_neg hj), keepsAllBut_putItemOk s k it⟩

/-! ### When a host write completes -/

/-- R155: H.WRITEITEM on a configured slot, with a value its field admits. -/
theorem exec_hWriteItem_ok {s : State} {k : Nat} {it : Item} (hm : s.ctx.marked = false) (hk : k < s.params.sdcCapacity)
    (hit : s.ctx.item? k = some it) {field : ItemField} {v : Nat} (hb : ¬ (field = .busyCycles ∧ v ≠ 0))
    (hv : fieldAdmits field v = true) : exec (.hWriteItem k field v) s = .next (s.putItemOk k (it.setField field v)) := by
  have hslot : checkSlot s.params s.ctx k = .ok it := by simp [checkSlot, hk.not_ge, hit]
  have hcheck := checkWriteItem_ok_iff.mpr ⟨⟨hb, hv⟩, it, hslot, rfl⟩
  rw [exec_hWriteItem, execHWriteItem, unlessMarked_of_unmarked hm, hcheck]
  rfl

/-- R158: H.WRITETX at an offset of the process data, with a byte. -/
theorem exec_hWriteTx_ok {s : State} (hm : s.ctx.marked = false) {o b : Nat} (h4 : 4 ≤ o) (h23 : o ≤ 23) (hb : b ≤ 0xFF) :
    exec (.hWriteTx o b) s = .next (s.putTxOk o (BitVec.ofNat 8 b)) := by
  have hcheck : checkWriteTx o b = .ok (BitVec.ofNat 8 b) := by
    simp [checkWriteTx, h4.not_gt, show ¬ nFrame - 3 < o from h23.not_gt, hb.not_gt]
  rw [exec_hWriteTx, execHWriteTx, unlessMarked_of_unmarked hm, hcheck]
  rfl

section

variable {s : State} (hs : s.pending = []) (hm : s.ctx.marked = false)
include hs hm

theorem run_load_hWriteItem {k : Nat} {it : Item} (hk : k < s.params.sdcCapacity) (hit : s.ctx.item? k = some it)
    {field : ItemField} {v : Nat} (hb : ¬ (field = .busyCycles ∧ v ≠ 0)) (hv : fieldAdmits field v = true)
    (ops : List Instr) (n : Nat) : core.run (n + 1) (s.load (.hWriteItem k field v :: ops)) =
      core.run n ((s.putItemOk k (it.setField field v)).load ops) :=
  run_load_cons hs rfl rfl (exec_hWriteItem_ok (s := s.load ops) hm hk hit hb hv) n

theorem run_load_hWriteTx {o b : Nat} (h4 : 4 ≤ o) (h23 : o ≤ 23) (hb : b ≤ 0xFF) (ops : List Instr) (n : Nat) :
    core.run (n + 1) (s.load (.hWriteTx o b :: ops)) = core.run n ((s.putTxOk o (BitVec.ofNat 8 b)).load ops) :=
  run_load_cons hs rfl rfl (exec_hWriteTx_ok (s := s.load ops) hm h4 h23 hb) n

end

/-! ### The pseudo-operations -/

theorem byteAt_frame (m : Memory) {o : Nat} (ho : o < nFrame) : byteAt m.frame o = m.read o :=
  (Memory.byteAt_readBytes m 0 ho).trans (by rw [Nat.zero_add])

/-- A 16-bit value stored as two bytes, low byte first, reads back little-endian (20_memory.md R50). -/
theorem memRead_frame_two {c : Context} {o v : Nat} (ho : o + 1 < nFrame) (hv : v ≤ 0xFFFF)
    (hlow : c.txByte o = BitVec.ofNat 8 (v % 256)) (hhigh : c.txByte (o + 1) = BitVec.ofNat 8 (v / 256 % 256)) :
    memRead c.tx.frame o 2 = v := by
  have h0 : byteAt c.tx.frame o = BitVec.ofNat 8 (v % 256) := (byteAt_frame c.tx (by omega)).trans hlow
  have h1 : byteAt c.tx.frame (o + 1) = BitVec.ofNat 8 (v / 256 % 256) := (byteAt_frame c.tx ho).trans hhigh
  simp only [memRead, h0, h1, BitVec.toNat_ofNat]
  omega

/-- Settles O40: a pseudo-operation runs its one or two host writes, and each of them writes its slot or byte only. -/
theorem pseudoOperations : Obligations.PseudoOperations := by
  intro s k it hm hk hit hw hs
  refine ⟨?arm, ?clear, ?abandon, fun o v h4 h22 hv => ?writeTx16⟩
  case arm =>
    have hcleared := writesSlot_putItemOk s k (it.setField .completed 0)
    have ⟨hslot, _, _⟩ := hcleared
    have hrun := (run_load_hWriteItem hs hm hk hit (field := .completed) (v := 0) (by simp) rfl
      [.hWriteItem k .requested 1] 1).trans (run_load_hWriteItem (s := s.putItemOk k (it.setField .completed 0)) hs hm hk
        hslot (field := .requested) (v := 1) (by simp) rfl [] 0)
    exact ⟨_, hrun.trans (run_load_nil _), hcleared.trans (writesSlot_putItemOk _ k _)⟩
  case clear =>
    have hrun := run_load_hWriteItem hs hm hk hit (field := .completed) (v := 0) (by simp) rfl [] 0
    exact ⟨_, hrun.trans (run_load_nil _), writesSlot_putItemOk s k _⟩
  case abandon =>
    have hrun := run_load_hWriteItem hs hm hk hit (field := .busyCycles) (v := 0) (by simp) rfl [] 0
    exact ⟨_, hrun.trans (run_load_nil _), writesSlot_putItemOk s k _⟩
  case writeTx16 =>
    have hin : o + 1 < nFrame := by unfold nFrame; omega
    have hlow := txByte_putTxOk hw o (BitVec.ofNat 8 (v % 256))
    have hhigh := txByte_putTxOk (s := s.putTxOk o (BitVec.ofNat 8 (v % 256))) (wf_putTx hw (by omega) _) (o + 1)
      (BitVec.ofNat 8 (v / 256 % 256))
    have hrun := (run_load_hWriteTx hs hm h4 (by omega) (by omega) [.hWriteTx (o + 1) (v / 256 % 256)] 1).trans
      (run_load_hWriteTx (s := s.putTxOk o (BitVec.ofNat 8 (v % 256))) hs hm (by omega) (by omega) (by omega) [] 0)
    refine ⟨_, hrun.trans (run_load_nil _), memRead_frame_two hin hv ?_ ?_, fun p hp hp' => ?_,
      (keepsAllBut_putTxOk s o _).trans (keepsAllBut_putTxOk _ (o + 1) _)⟩
    · rw [hhigh, if_neg (by omega), hlow, if_pos rfl]
    · rw [hhigh, if_pos rfl]
    · rw [hhigh, if_neg hp', hlow, if_neg hp]

end Sys2Proof.Machine
end

section
/-!
PROOFS of 40_checksum.md. A byte of CRC16 depends on the register's low byte through a table and moves the high byte down; from
that and the register's injectivity follow the table-driven form, the zero residue of a frame whose field holds its checksum
(R103), and the detection of every change of one byte (R104).
-/

namespace Sys2Proof.Machine

/-! ### One byte of CRC16 -/

/-- The table of the table-driven form: each byte shifted through an empty register (R100). -/
def crcTable (b : Byte) : Word16 := crcShifts 8 (b.setWidth 16)

/-- The register's low byte and the byte added to it go through the table; the high byte only moves down. -/
theorem crcByteTable_crcTable : crcByteTable crcTable = crcByte := by
  funext c b
  have hsplit : c ^^^ b.setWidth 16 = (c >>> 8 <<< 8) ^^^ (c.setWidth 8 ^^^ b).setWidth 16 := by
    apply BitVec.eq_of_getLsbD_eq
    intro i hi
    by_cases h8 : i < 8
    · simp [h8, hi]
    · simp [h8, hi, show 8 + (i - 8) = i by omega]
  have hhigh : crcShifts 8 (c >>> 8 <<< 8) = c >>> 8 := by
    rw [crcShifts_of_low_clear fun i hi => by simp [hi]]
    apply BitVec.eq_of_getLsbD_eq
    intro i hi
    by_cases h8 : 8 + i < 16
    · simp [h8]
    · simp [h8, BitVec.getLsbD_of_ge c (8 + i) (by omega)]
  rw [crcByte, hsplit, crcShifts_xor, hhigh]
  rfl

theorem crcByte_right_injective {c : Word16} {x y : Byte} (h : crcByte c x = crcByte c y) : x = y := by
  have hword := (BitVec.xor_right_inj c).mp (crcShifts_injective h)
  simpa using congrArg (BitVec.setWidth 8) hword

/-- The byte step is linear. -/
theorem crcByte_xor (a b : Word16) (x y : Byte) : crcByte a x ^^^ crcByte b y = crcByte (a ^^^ b) (x ^^^ y) := by
  simp only [crcByte, ← crcShifts_xor, BitVec.setWidth_xor]
  congr 1
  ac_rfl

theorem crcByte_xor_same (c : Word16) (x y : Byte) : crcByte c x ^^^ crcByte c y = crcTable (x ^^^ y) := by
  rw [crcByte_xor, BitVec.xor_self, crcByte, BitVec.zero_xor, crcTable]

/-- The pseudocode's inner loop, which counts its shifts by the elements of a list. -/
theorem crcShifts_length (l : List Nat) (c : Word16) : crcShifts l.length c = l.foldl (fun c _ => crcShift c) c := by
  induction l generalizing c with
  | nil => rfl
  | cons _ l ih => exact ih (crcShift c)

/-- No byte but 0 is its own table entry. -/
theorem eq_zero_of_crcTable_eq : ∀ d : Byte, crcTable d = d.setWidth 16 → d = 0 := by decide +kernel

/-- Two different bytes leave different registers in their two orders: their difference would be its own table entry. -/
theorem crcByte_swap_injective {c : Word16} {x y : Byte} (h : crcByte (crcByte c x) y = crcByte (crcByte c y) x) :
    x = y := by
  have hzero : crcByte (crcTable (x ^^^ y)) (x ^^^ y) = 0 := by
    rw [← crcByte_xor_same, BitVec.xor_comm x y, ← crcByte_xor, h]
    exact BitVec.xor_self
  exact BitVec.xor_eq_zero_iff.mp (eq_zero_of_crcTable_eq _ (BitVec.xor_eq_zero_iff.mp (eq_zero_of_crcShifts hzero)))

/-! ### CRC16 of a byte sequence -/

theorem crcFrom_eq_foldl (c : Word16) (bs : List Byte) : crcFrom c bs = bs.foldl crcByte c := by
  induction bs generalizing c with
  | nil => rfl
  | cons b bs ih => exact ih (crcByte c b)

/-- CRC16 tells two bytes apart wherever they stand in a sequence. -/
theorem crc16_byte_injective {l r : List Byte} {x y : Byte} (h : crc16 (l ++ x :: r) = crc16 (l ++ y :: r)) : x = y := by
  simp only [crc16, crcFrom_append, crcFrom] at h
  exact crcByte_right_injective (crcFrom_injective h)

theorem crc16_swap_injective {l r : List Byte} {x y : Byte} (h : crc16 (l ++ x :: y :: r) = crc16 (l ++ y :: x :: r)) :
    x = y := by
  simp only [crc16, crcFrom_append, crcFrom] at h
  exact crcByte_swap_injective (crcFrom_injective h)

theorem crc16_concat (bs : List Byte) (b : Byte) : crc16 (bs ++ [b]) = crcByte (crc16 bs) b := crcFrom_append _ bs [b]

theorem answer_of_unmarked {s : State} (hm : s.ctx.marked = false) (r : Result) :
    s.answer r = .next { s with result := some r } :=
  unlessMarked_of_unmarked hm _

/-- Settles O8: CRC16 is a fold of its byte step, which is the table's step and injective in every byte and every order. -/
theorem checksumFunction : Obligations.ChecksumFunction := by
  refine ⟨fun s bs hm => answer_of_unmarked hm _, rfl, fun bs b => ?loop, ⟨crcTable, fun bs => ?table⟩,
    fun _ _ _ _ => mt crc16_byte_injective, fun _ _ _ _ => mt crc16_swap_injective, by decide +kernel, by decide +kernel⟩
  case loop => exact (crc16_concat bs b).trans (crcShifts_length (List.range 8) _)
  case table => exact crcByteTable_crcTable ▸ crcFrom_eq_foldl _ bs

/-! ### STAMP -/

theorem keepsAllBut_stamp (s : State) : KeepsAllBut [.bytes] s ((s.withCtx (stamp s.ctx)).return .noValue) := by
  intro p hp
  cases p with
  | bytes => simp at hp
  | slots => exact fun _ => rfl
  | _ => rfl

theorem exec_stamp_of_unmarked {s : State} (hm : s.ctx.marked = false) :
    exec .stamp s = .next ((s.withCtx (stamp s.ctx)).return .noValue) := by
  rw [exec_stamp, execStamp, unlessMarked_of_unmarked hm]

/-- Settles O9: STAMP stores the two bytes of the checksum, and the frame it leaves passes VALIDATE. -/
theorem stampWritesTheChecksum : Obligations.StampWritesTheChecksum := by
  intro s hm hw
  have hbyte := stamp_txByte hw
  rw [Memory.take_frame _ (by decide)]
  refine ⟨_, exec_stamp_of_unmarked hm, hbyte 24, hbyte 25, fun o h24 h25 => ?_, validate_stamp_frame hw,
    keepsAllBut_stamp s⟩
  exact (hbyte o).trans (by rw [if_neg h25, if_neg h24])

/-! ### VALIDATE and the zero residue -/

/-- A byte equal to the register's low byte only moves the high byte down. -/
theorem crcByte_low (c : Word16) : crcByte c (byteOf c 0) = c >>> 8 := by
  have hlow : c.setWidth 8 ^^^ byteOf c 0 = 0#8 := by
    rw [BitVec.xor_eq_zero_iff, BitVec.setWidth_eq_extractLsb' (by decide)]
    rfl
  rw [← crcByteTable_crcTable, crcByteTable, hlow]
  exact BitVec.xor_zero

/-- A register's own two bytes empty it, and no other two bytes do. -/
theorem crcFrom_leBytes16_eq_zero_iff (c v : Word16) : crcFrom c (leBytes16 v) = 0 ↔ c = v := by
  have hself : crcFrom v (leBytes16 v) = 0 := by
    have hhigh : byteOf v 1 = byteOf (v >>> 8) 0 := by
      apply BitVec.eq_of_getLsbD_eq
      intro i hi
      simp [byteOf, hi]
    show crcByte (crcByte v (byteOf v 0)) (byteOf v 1) = 0
    rw [crcByte_low, hhigh, crcByte_low, ← BitVec.shiftRight_add]
    exact BitVec.ushiftRight_eq_zero (by decide)
  exact ⟨fun h => crcFrom_injective (h.trans hself.symm), fun h => h ▸ hself⟩

/-- A frame is the bytes its checksum covers and the field that holds it. -/
theorem take_append_crcField {f : List Byte} (hf : f.length = nFrame) :
    f.take nCovered ++ leBytes16 (crcField f) = f := by
  obtain ⟨_, _, _, _, _, _, _, _, _, _, _, _, _, _, _, _, _, _, _, _, _, _, _, _, a24, a25, rfl⟩ := frame_bytes hf
  show _ ++ leBytes16 (a25 ++ a24) = _
  rw [leBytes16_word16]
  rfl

theorem validate_iff_crcField (f : List Byte) : validate f = true ↔ crc16 (f.take nCovered) = crcField f := beq_iff_eq

/-- R103: the two ways to check a frame accept the same frames. -/
theorem validate_iff_residue_zero {f : List Byte} (hf : f.length = nFrame) : validate f = true ↔ crc16 f = 0 := by
  rw [validate_iff_crcField, ← crcFrom_leBytes16_eq_zero_iff, crc16, ← crcFrom_append, take_append_crcField hf]
  rfl

/-- Settles O10: VALIDATE answers the comparison, which is the zero residue. -/
theorem validateEqualsResidueZero : Obligations.ValidateEqualsResidueZero := by
  intro s f hm hf
  refine ⟨validate f, answer_of_unmarked hm _, ?_, validate_iff_residue_zero hf⟩
  rw [validate_iff_crcField, ← BitVec.toNat_inj, crcField, toNat_le16]
  rfl

/-! ### Corrupted frames -/

theorem crc16_set_injective {bs : List Byte} {k : Nat} {x y : Byte} (hk : k < bs.length)
    (h : crc16 (bs.set k x) = crc16 (bs.set k y)) : x = y := by
  simp only [List.set_eq_take_append_cons_drop, if_pos hk] at h
  exact crc16_byte_injective h

/-- CRC16 detects every change of one byte. -/
theorem crc16_set_ne {bs : List Byte} {k : Nat} {y : Byte} (hk : k < bs.length) (hy : y ≠ byteAt bs k) :
    crc16 (bs.set k y) ≠ crc16 bs := by
  have hself : bs.set k (byteAt bs k) = bs := by simp [byteAt, hk]
  exact fun h => hy (crc16_set_injective hk (h.trans (congrArg crc16 hself.symm)))

theorem xor_one_shiftLeft_ne (x : Byte) {b : Nat} (hb : b < 8) : x ^^^ (1#8 <<< b) ≠ x := by
  intro h
  have hbit := congrArg (·.getLsbD b) h
  simp [hb] at hbit

/-- The all-zero frame and the one that begins with byte 0x01 and its table entry 0xC0C1, which empties the register again. -/
theorem exists_undetected_corruption : ∃ f g : List Byte, f.length = nFrame ∧ g.length = nFrame ∧ f.take 24 ≠ g.take 24 ∧
    crcField f = crcField g ∧ validate f = true ∧ validate g = true :=
  ⟨List.replicate 24 0 ++ [0x7A, 0xF7], [0x01, 0xC1, 0xC0] ++ List.replicate 21 0 ++ [0x7A, 0xF7], by decide +kernel⟩

/-- Settles O11: a flipped bit changes one byte, so the checksum of what it lies in; the residue of the frame leaves 0. -/
theorem singleBitFlipIsDetected : Obligations.SingleBitFlipIsDetected := by
  refine ⟨fun f k b hf hv hk hb => ⟨?frame, fun h24 => ?covered⟩, exists_undetected_corruption⟩
  case frame =>
    rw [← Bool.not_eq_true, validate_iff_residue_zero (by rw [List.length_set, hf]), ←
      (validate_iff_residue_zero hf).mp hv]
    exact crc16_set_ne (hf ▸ hk) (xor_one_shiftLeft_ne _ hb)
  case covered =>
    have hbyte : byteAt (f.take 24) k = byteAt f k := by simp [byteAt, h24]
    rw [List.take_set, ← hbyte]
    exact crc16_set_ne (by rw [List.length_take, hf]; exact lt_min h24 hk) (xor_one_shiftLeft_ne _ hb)

end Sys2Proof.Machine
end

section
/-!
PROOFS of 41_frame.md: the frame codec. Decoding undoes encoding field by field, encoding undoes decoding byte by byte, and the
checksum behind the first 24 bytes is the field that VALIDATE compares; both layouts are read through the decoders.
-/

namespace Sys2Proof.Machine

/-! ### Little-endian fields -/

@[simp] theorem byteAt_cons_succ (b : Byte) (bs : List Byte) (o : Nat) : byteAt (b :: bs) (o + 1) = byteAt bs o := rfl

@[simp] theorem byteAt_cons_zero (b : Byte) (bs : List Byte) : byteAt (b :: bs) 0 = b := rfl

/-- The two bytes of a number make it up again. -/
@[simp] theorem byteOf_append_byteOf (v : Word16) : (byteOf v 1 ++ byteOf v 0 : Word16) = v := le16_leBytes16 v []

/-- The four bytes of a number make it up again. -/
@[simp] theorem byteOf_append_byteOf_four (v : Word32) :
    (byteOf v 3 ++ byteOf v 2 ++ byteOf v 1 ++ byteOf v 0 : Word32) = v :=
  le32_leBytes32 v []

/-- A byte is MemRead of one byte (00_scope.md R12). -/
theorem toNat_byteAt (bs : List Byte) (o : Nat) : (byteAt bs o).toNat = memRead bs o 1 := rfl

/-! ### The sub-frame codec -/

/-- W1 of a decoded sub-frame is the word its fields were read from. -/
theorem sdcWord1_decodeSdc (b : List Byte) : sdcWord1 (decodeSdc b) = le16 b 2 := by
  apply BitVec.eq_of_getLsbD_eq
  intro i hi
  rw [sdcWord1, getLsbD_sdcWord1]
  simp only [decodeSdc, BitVec.getLsbD_extractLsb']
  grind

/-- R116: SDC.ENC gives back the bytes SDC.DEC read. -/
theorem encodeSdc_decodeSdc (b0 b1 b2 b3 : Byte) : encodeSdc (decodeSdc [b0, b1, b2, b3]) = [b0, b1, b2, b3] := by
  show leBytes16 (b1 ++ b0) ++ leBytes16 (sdcWord1 (decodeSdc [b0, b1, b2, b3])) = _
  rw [sdcWord1_decodeSdc, leBytes16_word16]
  exact congrArg ([b0, b1] ++ ·) (leBytes16_word16 b2 b3)

/-- The low byte of W1 is the address's low byte (30_encoding.md R71). -/
theorem byteOf_sdcWord1_zero (r : SdcRec) : byteOf (sdcWord1 r) 0 = r.address.extractLsb' 0 8 := by
  apply BitVec.eq_of_getLsbD_eq
  intro i hi
  rw [byteOf, BitVec.getLsbD_extractLsb', BitVec.getLsbD_extractLsb', sdcWord1, getLsbD_sdcWord1]
  grind

/-- The high byte of W1 holds the reserved bits, the error and write bits and the address's high bits. -/
theorem byteOf_sdcWord1_one (r : SdcRec) : byteOf (sdcWord1 r) 1 =
    r.reserved ++ BitVec.ofBool r.error ++ BitVec.ofBool r.write ++ r.address.extractLsb' 8 4 := by
  apply BitVec.eq_of_getLsbD_eq
  intro i hi
  rw [getLsbD_sdcByte3, byteOf, BitVec.getLsbD_extractLsb', sdcWord1, getLsbD_sdcWord1, BitVec.getLsbD_extractLsb']
  grind

/-- Settles O4: the bytes of W1 and the fields of a sub-frame by bit. -/
theorem sdcCodecLayout : Obligations.SdcCodecLayout := by
  refine fun s hm => ⟨fun r => ?_, fun b0 b1 b2 b3 => ?_⟩
  · rw [← byteOf_sdcWord1_zero, ← byteOf_sdcWord1_one]
    exact answer_of_unmarked hm _
  · rw [← decodeSdc_bytes]
    exact answer_of_unmarked hm _

/-! ### Decoding an encoded frame -/

theorem take_sdcLen_outEnc (o : OutRec) : (outEnc o).take sdcLen = encodeSdc o.sdc := rfl

theorem take_sdcLen_inEnc (r : InRec) : (inEnc r).take sdcLen = encodeSdc r.sdc := rfl

theorem outDec_outEnc (o : OutRec) : outDec (outEnc o) = o := by
  rw [outDec, take_sdcLen_outEnc, decodeSdc_encodeSdc]
  simp [outEnc_bytes, le16]

theorem inDec_inEnc (r : InRec) : inDec (inEnc r) = r := by
  rw [inDec, take_sdcLen_inEnc, decodeSdc_encodeSdc]
  simp [inEnc_bytes, le16, le32]

theorem crcField_outEnc (o : OutRec) : crcField (outEnc o) = crc16 (outBody o) := byteOf_append_byteOf _

theorem crcField_inEnc (r : InRec) : crcField (inEnc r) = crc16 (inBody r) := byteOf_append_byteOf _

/-! ### Encoding a decoded frame -/

theorem outBody_outDec {t : List Byte} (ht : t.length = nFrame) : outBody (outDec t) = t.take nCovered := by
  obtain ⟨a0, a1, a2, a3, a4, a5, a6, a7, a8, a9, a10, a11, a12, a13, a14, a15, a16, a17, a18, a19, a20, a21, a22, a23,
    a24, a25, rfl⟩ := frame_bytes ht
  simp [outBody, outDec, encodeSdc_decodeSdc, le16, leBytes16_word16]

theorem inBody_inDec {f : List Byte} (hf : f.length = nFrame) : inBody (inDec f) = f.take nCovered := by
  obtain ⟨a0, a1, a2, a3, a4, a5, a6, a7, a8, a9, a10, a11, a12, a13, a14, a15, a16, a17, a18, a19, a20, a21, a22, a23,
    a24, a25, rfl⟩ := frame_bytes hf
  simp [inBody, inDec, encodeSdc_decodeSdc, le16, le32, leBytes16_word16, leBytes32_word32]

/-- Settles O5: the fields of an encoded record and the bytes of a decoded frame read back, and so does the checksum. -/
theorem codecRoundTrips : Obligations.CodecRoundTrips := by
  refine ⟨decodeSdc_encodeSdc, fun b hb => ?subframe, fun o => ⟨outDec_outEnc o, crcField_outEnc o⟩,
    fun r => ⟨inDec_inEnc r, crcField_inEnc r⟩, fun _ => outBody_outDec, fun _ => inBody_inDec⟩
  match b, hb with
  | [b0, b1, b2, b3], _ => exact encodeSdc_decodeSdc b0 b1 b2 b3

/-! ### The checksum field -/

theorem toNat_crcField (f : List Byte) : (crcField f).toNat = memRead f 24 2 := toNat_le16 f 24

theorem validate_outEnc (o : OutRec) : validate (outEnc o) = true :=
  (validate_iff_crcField _).mpr (crcField_outEnc o).symm

theorem validate_inEnc (r : InRec) : validate (inEnc r) = true :=
  (validate_iff_crcField _).mpr (crcField_inEnc r).symm

/-- A frame that VALIDATE accepts is its first 24 bytes with their checksum behind them. -/
theorem withChecksum_take_of_validate {t : List Byte} (ht : t.length = nFrame) (hv : validate t = true) :
    withChecksum (t.take nCovered) = t := by
  rw [withChecksum, (validate_iff_crcField t).mp hv, take_append_crcField ht]

theorem memRead_checksum_of_validate {f : List Byte} (hv : validate f = true) :
    memRead f 24 2 = (crc16 (f.take 24)).toNat := by
  rw [(validate_iff_crcField f).mp hv, toNat_crcField]

/-! ### The frame layouts -/

/-- Settles O6: each field is a byte or a little-endian number of the frame. -/
theorem frameDecodersReadTheLayout : Obligations.FrameDecodersReadTheLayout := by
  intro s f hm _
  refine ⟨⟨outDec f, crcField f, answer_of_unmarked hm _, ?_⟩, inDec f, crcField f, answer_of_unmarked hm _, ?_⟩
  · simp only [outDec, toNat_crcField, toNat_byteAt, toNat_le16, and_self]
  · simp only [inDec, toNat_crcField, toNat_byteAt, toNat_le16, toNat_le32, and_self]

/-- Settles O7: the frame an encoder returns is a valid one that decodes to the record, so the record's fields are those the
decoder reads at their offsets. -/
theorem frameEncodersWriteTheLayout : Obligations.FrameEncodersWriteTheLayout := by
  refine fun s hm => ⟨fun o => ?out, fun r => ?inb, fun t ht hv => ?restamp⟩
  case out =>
    refine ⟨outEnc o, answer_of_unmarked hm _, rfl, take_sdcLen_outEnc o, ?_⟩
    have hfields := outDec_outEnc o
    have hvalid := validate_outEnc o
    generalize outEnc o = f at *
    subst hfields
    simp only [outDec, toNat_byteAt, toNat_le16, memRead_checksum_of_validate hvalid, hvalid, and_self]
  case inb =>
    refine ⟨inEnc r, answer_of_unmarked hm _, rfl, take_sdcLen_inEnc r, ?_⟩
    have hfields := inDec_inEnc r
    have hvalid := validate_inEnc r
    generalize inEnc r = f at *
    subst hfields
    simp only [inDec, toNat_byteAt, toNat_le16, toNat_le32, memRead_checksum_of_validate hvalid, hvalid, and_self]
  case restamp =>
    rw [outEnc, inEnc, outBody_outDec ht, inBody_inDec ht]
    exact ⟨withChecksum_take_of_validate ht hv, withChecksum_take_of_validate ht hv⟩

end Sys2Proof.Machine
end

section
/-!
PROOFS of 42_scheduler.md: the branches of SCHED (R120 to R123), an item that no CYCLE answers (R121, R208), and round robin
(R124). Laws/Runs.lean selects the branch that SCHED takes; a failed CYCLE is one more busy step of the item at the cursor; an
accepted dispatch moves the cursor past the slot it served and writes no other slot.
-/

namespace Sys2Proof.Machine

/-! ### The branches of SCHED -/

theorem State.CanScan.unmarked {s : State} (h : s.CanScan) : s.ctx.marked = false := h.1

theorem State.CanScan.cursor_lt {s : State} (h : s.CanScan) : s.ctx.cursor < s.ctx.count := h.2.1

/-- Settles O12: SCHED answers its own context on an empty table and after a scan that finds nothing. -/
theorem schedIdle : Obligations.SchedIdle := by
  refine fun s => ⟨fun hm h0 => exec_sched_ok hm (sched_empty h0), fun ⟨hm, hlt, cur, hcur, hb⟩ hnone => ?_⟩
  exact exec_sched_ok hm (sched_scan hlt hcur hb (scan_none hnone))

theorem keepsAllBut_busyStep (s : State) (it : Item) :
    KeepsAllBut [.slots, .events] s ((s.withCtx (busyStep s.params s.ctx it)).return .noValue) := by
  intro p hp
  cases p with
  | slots => simp at hp
  | events => simp at hp
  | bytes => exact busyStep_txByte s.params s.ctx it
  | _ => simp [Part.Same]

/-- R121: the busy step appends SdcTimeout or nothing. -/
theorem busyStep_events_append (p : Params) (c : Context) (it : Item) : (busyStep p c it).events = c.events ++
    if satInc it.busyCycles p.busySat ≠ it.busyCycles ∧ satInc it.busyCycles p.busySat = busyTimeout
    then [.diag (.sdcTimeout c.cursor it.address)] else [] := by
  rw [busyStep_events]
  split
  · rfl
  · exact (List.append_nil _).symm

/-- Settles O13: SCHED takes the busy step. -/
theorem schedBusyBranch : Obligations.SchedBusyBranch := by
  intro s it hm hlt hcur hb
  have hitem := busyStep_item? s.params s.ctx it
  exact ⟨_, exec_sched_ok hm (sched_busy hlt hcur hb), (hitem _).trans (if_pos rfl),
    busyStep_events_append s.params s.ctx it, fun k hk => (hitem k).trans (if_neg hk), keepsAllBut_busyStep s it⟩

theorem keepsAllBut_dispatch (s : State) (j : Nat) (it : Item) :
    KeepsAllBut [.slots, .bytes, .cursor] s ((s.withCtx (dispatch s.ctx j it)).return .noValue) := by
  intro p hp
  cases p with
  | slots => simp at hp
  | bytes => simp at hp
  | cursor => simp at hp
  | _ => rfl

/-- R120, R122: SCHED with its cursor's item not in flight dispatches the first eligible slot. -/
theorem exec_sched_dispatch {s : State} {j : Nat} {it : Item} (hs : s.CanScan) (hj : FirstEligible s.ctx j it) :
    exec .sched s = .next ((s.withCtx (dispatch s.ctx j it)).return .noValue) :=
  exec_sched_ok hs.unmarked (sched_dispatch hs hj)

/-- Settles O14: the bytes, the slot and the cursor that DISPATCH writes. -/
theorem schedDispatchesFirstEligible : Obligations.SchedDispatchesFirstEligible := by
  intro s j it hs hw hj
  have hbyte := dispatch_txByte hw j it
  have hitem := dispatch_item? s.ctx j it
  refine ⟨_, exec_sched_dispatch hs hj, hbyte 0, hbyte 1, hbyte 2, hbyte 3, fun o ho => (hbyte o).trans ?_,
    (hitem j).trans (if_pos rfl), fun k hk => (hitem k).trans (if_neg hk), rfl, keepsAllBut_dispatch s j it⟩
  rw [if_neg (by omega), if_neg (by omega), if_neg (by omega), if_neg (by omega)]

/-! ### CYCLEs that the transport answers with Fail -/

theorem timeouts_append (es es' : List Event) : timeouts (es ++ es') = timeouts es + timeouts es' :=
  List.countP_append

/-- R121: what the busy step adds to the number of timeouts. -/
theorem timeouts_busyStep (p : Params) (c : Context) (it : Item) : timeouts (busyStep p c it).events = timeouts c.events +
    if satInc it.busyCycles p.busySat ≠ it.busyCycles ∧ satInc it.busyCycles p.busySat = busyTimeout then 1 else 0 := by
  rw [busyStep_events_append, timeouts_append]
  split <;> rfl

/-- What a CYCLE answered Fail leaves of the context that its SCHED leaves (44_orchestrator.md R143). -/
def Context.unanswered (c : Context) : Context := (stamp c).append (.exchange (stamp c).tx.frame .fail)

/-- R143: the CYCLE ends after SCHED, STAMP and the exchange record. -/
theorem exec_cycle_fail {s : State} {c : Context} (hm : s.ctx.marked = false) (ho : s.ctx.transport = .opened)
    (hs : sched s.params s.ctx = .ok c) :
    exec (.cycle .fail) s = .next ((s.withCtx c.unanswered).return .xferFail) := by
  rw [exec_cycle, execCycle_of_opened hm ho, hs]
  rfl

theorem timeouts_unanswered (c : Context) : timeouts c.unanswered.events = timeouts c.events := timeouts_append _ _

/-- A context `n` failed CYCLEs after `c₀`, in which the item at the cursor had just been dispatched (R121, R208). -/
structure StuckFor (p : Params) (c₀ : Context) (it : Item) (n : Nat) (c : Context) : Prop where
  unmarked : c.marked = false
  opened : c.transport = .opened
  tx_wf : c.tx.wf
  cursor : c.cursor = c₀.cursor
  cursor_lt : c.cursor < c.count
  item : c.item? c.cursor = some { it with busyCycles := min (n + 1) p.busySat }
  subframe : ∀ o, o < 4 → c.txByte o = c₀.txByte o
  timeouts : timeouts c.events = timeouts c₀.events + if 9 ≤ n then 1 else 0

section StuckFor

variable {p : Params} (hsat : busyTimeout ≤ p.busySat)
include hsat

/-- R121: between busy counts that saturate at 10 or above, the timeout is the step from the ninth count to the tenth. -/
theorem satInc_times_out_iff (n : Nat) :
    satInc (min (n + 1) p.busySat) p.busySat ≠ min (n + 1) p.busySat ∧
      satInc (min (n + 1) p.busySat) p.busySat = busyTimeout ↔ n = 8 := by
  simp only [satInc, busyTimeout] at hsat ⊢
  omega

/-- One more failed CYCLE is one more busy step. -/
theorem StuckFor.succ {c₀ c : Context} {it : Item} {n : Nat} (h : StuckFor p c₀ it n c) :
    ∃ d, sched p c = .ok d ∧ StuckFor p c₀ it (n + 1) d.unanswered := by
  obtain ⟨hm, ho, hw, hcursor, hlt, hitem, hsub, htime⟩ := h
  have hpos : 0 < min (n + 1) p.busySat := by
    simp only [busyTimeout] at hsat
    omega
  refine ⟨_, sched_busy hlt hitem hpos, ?unmarked, ?opened, stamp_wf (by simpa using hw), ?cursor, ?cursor_lt, ?item,
    fun o ho => ?subframe, ?timeouts⟩
  case unmarked => simpa [Context.unanswered, Context.marked] using hm
  case opened => simpa [Context.unanswered] using ho
  case cursor => simpa [Context.unanswered] using hcursor
  case cursor_lt => simpa [Context.unanswered] using hlt
  case item =>
    have hinc : satInc (min (n + 1) p.busySat) p.busySat = min (n + 1 + 1) p.busySat := by
      simp only [satInc]
      omega
    simp [Context.unanswered, busyStep_item?, hinc]
  case subframe =>
    rw [Context.unanswered, Context.append_txByte, stamp_txByte (by simpa using hw), if_neg (by omega), if_neg (by omega),
      busyStep_txByte, hsub o ho]
  case timeouts =>
    rw [timeouts_unanswered, timeouts_busyStep, htime, if_congr (satInc_times_out_iff hsat n) rfl rfl]
    split_ifs <;> omega

end StuckFor

/-- R58, R77: a run takes the oldest request first. -/
theorem run_pending_cons {s t : State} {p : Port} {i : Instr} {rest : List Request}
    (hs : s.pending = .operation p i :: rest) (hp : portOf i = some p) (hw : i.wellFormed = true)
    (h : exec i { s with pending := rest } = .next t) (n : Nat) : core.run (n + 1) s = core.run n t := by
  have hstep : core.step s = .next t := (step_of_fetched hs (fetchRequest_of_port hp hw)).trans h
  simp only [Host.Core.run, hstep]

/-- A run of failed CYCLEs counts on. -/
theorem StuckFor.run {c₀ : Context} {it : Item} {n m : Nat} {s : State} (hsat : busyTimeout ≤ s.params.busySat)
    (h : StuckFor s.params c₀ it m s.ctx) (hs : s.pending = List.replicate n (.operation .host (.cycle .fail))) :
    ∃ t, core.run n s = .next t ∧ StuckFor s.params c₀ it (m + n) t.ctx := by
  induction n generalizing m s with
  | zero => exact ⟨s, rfl, h⟩
  | succ n ih =>
    obtain ⟨d, hd, hstuck⟩ := h.succ hsat
    have hcycle := exec_cycle_fail (s := { s with pending := List.replicate n (.operation .host (.cycle .fail)) })
      h.unmarked h.opened hd
    rw [run_pending_cons hs rfl rfl hcycle, show m + (n + 1) = m + 1 + n by omega]
    exact ih hsat hstuck rfl

/-- Settles O31: the run starts with no failed CYCLE behind it. -/
theorem stuckItemTimesOutOnce : Obligations.StuckItemTimesOutOnce := by
  intro s it n hm hlt ho hw hsat hitem hb hs
  have hone : min (0 + 1) s.params.busySat = 1 := by
    simp only [busyTimeout] at hsat
    omega
  have hstart : StuckFor s.params s.ctx it 0 s.ctx :=
    ⟨hm, ho, hw, rfl, hlt, by rw [hone, ← hb]; exact hitem, fun _ _ => rfl, rfl⟩
  obtain ⟨t, ht, hstuck⟩ := hstart.run hsat hs
  rw [Nat.zero_add] at hstuck
  exact ⟨t, ht, hstuck.cursor ▸ hstuck.item, hstuck.cursor, hstuck.subframe, hstuck.timeouts⟩

/-! ### The response to a dispatch -/

/-- R131: MATCH's two discard tests together. -/
theorem not_discards_iff {it : Item} {r : SdcRec} :
    ¬ Discards it r ↔ it.mismatches r = false ∧ it.echoDiffers r = false := by
  simp [Discards, Item.mismatches, Item.echoDiffers, and_assoc]

/-- MATCH with its cursor in the table accepts every response it does not discard (R131 to R133). -/
theorem matchRec_accept {c : Context} {it : Item} {r : SdcRec} (hlt : c.cursor < c.count)
    (hcur : c.item? c.cursor = some it) (h : ¬ Discards it r) :
    matchRec c r = .ok (accept (c.emitIf (it.errorIsNew r) (.sdcError c.cursor it.address r.value)) it r) := by
  obtain ⟨hmismatch, hecho⟩ := not_discards_iff.mp h
  simp [matchRec, matchItem, show ¬ (c.count = 0 ∨ c.count ≤ c.cursor) by omega, hcur, hmismatch, hecho]

/-- MATCH from an unmarked context. -/
theorem exec_matchSdc_ok {s : State} {f : List Byte} {c : Context} (hm : s.ctx.marked = false)
    (hc : matchRec s.ctx (decodeSdc (f.take sdcLen)) = .ok c) :
    exec (.matchSdc f) s = .next ((s.withCtx c).return .noValue) :=
  (exec_receives (.inr ⟨f, rfl, rfl⟩)).trans (receive_eq hm hc)

theorem FirstEligible.lt {c : Context} {j : Nat} {it : Item} (h : FirstEligible c j it) : j < c.count :=
  scan_lt (scan_first h)

/-- R123, R133: an accepted dispatch writes the served slot alone and moves the cursor past it. -/
theorem exec_accepted_dispatch {s : State} {j : Nat} {it : Item} {f : List Byte} (hs : s.CanScan)
    (hj : FirstEligible s.ctx j it) (ha : ¬ Discards it (decodeSdc (f.take sdcLen))) :
    ∃ t u, exec .sched s = .next t ∧ t.ctx.cursor = j ∧ exec (.matchSdc f) t = .next u ∧
      (∀ k, k ≠ j → u.ctx.item? k = s.ctx.item? k) ∧ u.ctx.count = s.ctx.count ∧
      u.ctx.cursor = (j + 1) % s.ctx.count := by
  have hmatch := matchRec_accept (c := dispatch s.ctx j it) (it := { it with busyCycles := 1, requested := false }) hj.lt
    ((dispatch_item? s.ctx j it j).trans (if_pos rfl)) ha
  refine ⟨_, _, exec_sched_dispatch hs hj, rfl, exec_matchSdc_ok (s := (s.withCtx _).return .noValue) hs.unmarked hmatch,
    fun k hk => ?_, ?_, ?_⟩
  · simp [accept_item?, dispatch_item?, hk]
  · simp
  · simp

/-! ### Round robin -/

theorem slotsAhead_lt_count {c : Context} {k : Nat} (hk : k < c.count) : slotsAhead c k < c.count :=
  Nat.mod_lt _ (Nat.zero_lt_of_lt hk)

/-- The slot `d` ahead of the cursor is `d` slots ahead. -/
theorem slotsAhead_cursor_add {c : Context} {d : Nat} (hlt : c.cursor < c.count) (hd : d < c.count) :
    slotsAhead c ((c.cursor + d) % c.count) = d := by
  have hsub : (c.cursor + d) % c.count + c.count - c.cursor = (c.cursor + d) % c.count + (c.count - c.cursor) := by omega
  rw [slotsAhead, hsub, Nat.mod_add_mod, show c.cursor + d + (c.count - c.cursor) = d + c.count by omega,
    Nat.add_mod_right, Nat.mod_eq_of_lt hd]

/-- Every slot of the table is the slot so many ahead of the cursor. -/
theorem cursor_add_slotsAhead {c : Context} {k : Nat} (hlt : c.cursor < c.count) (hk : k < c.count) :
    (c.cursor + slotsAhead c k) % c.count = k := by
  rw [slotsAhead, Nat.add_mod_mod, show c.cursor + (k + c.count - c.cursor) = k + c.count by omega, Nat.add_mod_right,
    Nat.mod_eq_of_lt hk]

section RoundRobin

variable {c : Context} {j k : Nat} {it itk : Item} (hlt : c.cursor < c.count) (hj : FirstEligible c j it)
  (hk : k < c.count) (hitk : c.item? k = some itk) (he : 0 < itk.factor ∨ itk.requested = true) (hne : j ≠ k)
include hlt hj hk hitk he hne

/-- R122: the scan comes to the slot it serves before every other eligible slot. -/
theorem FirstEligible.slotsAhead_lt : slotsAhead c j < slotsAhead c k := by
  obtain ⟨d, hd, rfl, _, _, hfirst⟩ := hj
  rw [slotsAhead_cursor_add hlt hd]
  rcases Nat.lt_trichotomy d (slotsAhead c k) with h | h | h
  · exact h
  · exact absurd (h ▸ cursor_add_slotsAhead hlt hk) hne
  · obtain ⟨it', hit', hf, hr⟩ := hfirst _ h
    rw [cursor_add_slotsAhead hlt hk, hitk] at hit'
    cases hit'
    simp [hf, hr] at he

/-- R124: with the cursor one past the slot served, an eligible slot passed over is closer. -/
theorem FirstEligible.slotsAhead_succ_lt {d : Context} (hcount : d.count = c.count)
    (hcursor : d.cursor = (j + 1) % c.count) : slotsAhead d k < slotsAhead c k := by
  have hcloser := hj.slotsAhead_lt hlt hk hitk he hne
  have hahead := slotsAhead_lt_count hk
  have hdlt : d.cursor < d.count := by
    rw [hcursor, hcount]
    exact Nat.mod_lt _ (by omega)
  have hslot : (d.cursor + (slotsAhead c k - slotsAhead c j - 1)) % d.count = k :=
    calc (d.cursor + (slotsAhead c k - slotsAhead c j - 1)) % d.count
      _ = ((c.cursor + slotsAhead c j) % c.count + 1 + (slotsAhead c k - slotsAhead c j - 1)) % c.count := by
        rw [cursor_add_slotsAhead hlt hj.lt, hcursor, hcount, Nat.mod_add_mod]
      _ = (c.cursor + slotsAhead c k) % c.count := by
        rw [Nat.add_assoc, Nat.mod_add_mod]
        congr 1
        omega
      _ = k := cursor_add_slotsAhead hlt hk
  have heq := slotsAhead_cursor_add (d := slotsAhead c k - slotsAhead c j - 1) hdlt (by omega)
  rw [hslot] at heq
  omega

end RoundRobin

/-- R124: the accepted dispatch of another slot leaves an eligible slot as it was, and closer. -/
theorem accepted_dispatch_comes_closer {s : State} {j k : Nat} {it itk : Item} {f : List Byte} (hs : s.CanScan)
    (hj : FirstEligible s.ctx j it) (hk : k < s.ctx.count) (hitk : s.ctx.item? k = some itk)
    (he : 0 < itk.factor ∨ itk.requested = true) (hne : j ≠ k) (ha : ¬ Discards it (decodeSdc (f.take sdcLen))) :
    ∃ t u, exec .sched s = .next t ∧ t.ctx.cursor = j ∧ exec (.matchSdc f) t = .next u ∧ u.ctx.item? k = some itk ∧
      u.ctx.count = s.ctx.count ∧ slotsAhead s.ctx j < slotsAhead s.ctx k ∧
      slotsAhead u.ctx k < slotsAhead s.ctx k := by
  obtain ⟨t, u, ht, htj, hu, hother, hcount, hcursor⟩ := exec_accepted_dispatch hs hj ha
  have hlt := hs.cursor_lt
  exact ⟨t, u, ht, htj, hu, (hother k hne.symm).trans hitk, hcount, hj.slotsAhead_lt hlt hk hitk he hne,
    hj.slotsAhead_succ_lt hlt hk hitk he hne hcount hcursor⟩

/-- R124: an eligible slot is served by one of as many accepted dispatches as it lies ahead, and one more. -/
theorem AcceptedDispatches.serves {s w : State} {js : List Nat} (h : AcceptedDispatches s js w) {k : Nat} {itk : Item}
    (hk : k < s.ctx.count) (hitk : s.ctx.item? k = some itk) (he : 0 < itk.factor ∨ itk.requested = true)
    (hlen : slotsAhead s.ctx k < js.length) : k ∈ js.take (slotsAhead s.ctx k + 1) := by
  induction h with
  | nil s => exact absurd hlen (Nat.not_lt_zero _)
  | @cons s t u w j js it f hs hj ht hf ha hu rest ih =>
    rw [List.take_succ_cons]
    by_cases hne : j = k
    · exact hne ▸ List.mem_cons_self
    obtain ⟨t', u', ht', _, hu', hitk', hcount, _, hcloser⟩ := accepted_dispatch_comes_closer hs hj hk hitk he hne ha
    cases ht.symm.trans ht'
    cases hu.symm.trans hu'
    rw [List.length_cons] at hlen
    have hserved := ih (hcount ▸ hk) hitk' (by omega)
    exact List.mem_cons_of_mem _ (List.take_subset_take_left js hcloser hserved)

/-- Settles O32: fewer than count slots lie ahead of any slot. -/
theorem acceptedDispatchesComeCloser : Obligations.AcceptedDispatchesComeCloser := by
  refine ⟨fun s j k it itk f hs hj hk hitk he hne _ ha => accepted_dispatch_comes_closer hs hj hk hitk he hne ha,
    fun s w js k it h hk hit he hlen => ?_⟩
  have hahead := slotsAhead_lt_count hk
  exact List.take_subset_take_left _ hahead (h.serves hk hit he (Nat.lt_of_lt_of_le hahead hlen))

end Sys2Proof.Machine
end

section
/-!
PROOFS of 43_matcher.md: what MATCH discards (R130, R131), what it accepts (R132 to R134), and what a completion carries
(R135). MATCH from an unmarked context leaves what matchRec leaves; in a CYCLE nothing but an accepting MATCH completes an item,
and SCHED before it keeps what MATCH compares.
-/

namespace Sys2Proof.Machine

/-! ### What MATCH discards -/

/-- MATCH does nothing on an empty table or with its cursor out of the table (R130). -/
theorem matchRec_of_nothing_outstanding {c : Context} (h : c.count = 0 ∨ c.count ≤ c.cursor) (r : SdcRec) :
    matchRec c r = .ok c := if_pos h

/-- R131: MATCH discards by one of its two tests. -/
theorem discards_iff {it : Item} {r : SdcRec} :
    Discards it r ↔ it.mismatches r = true ∨ it.echoDiffers r = true := by
  simp [Discards, Item.mismatches, Item.echoDiffers, or_assoc, and_assoc]

theorem matchItem_discard {it : Item} {r : SdcRec} (h : Discards it r) (c : Context) : matchItem c it r = c := by
  rw [matchItem]
  rcases discards_iff.mp h with hmismatch | hecho
  · exact if_pos hmismatch
  · rw [if_pos hecho, ite_self]

/-- MATCH with its cursor in the table leaves the context as it is when it discards the response (R131). -/
theorem matchRec_discard {c : Context} {it : Item} {r : SdcRec} (hlt : c.cursor < c.count)
    (hcur : c.item? c.cursor = some it) (h : Discards it r) : matchRec c r = .ok c := by
  simp [matchRec, show ¬ (c.count = 0 ∨ c.count ≤ c.cursor) by omega, hcur, matchItem_discard h]

/-- Settles O19: MATCH leaves the context, and its step returns. -/
theorem matchNothingOutstanding : Obligations.MatchNothingOutstanding :=
  fun _ _ hm _ hout => exec_matchSdc_ok hm (matchRec_of_nothing_outstanding hout _)

/-! ### What MATCH accepts -/

/-- R132: an error is new when none was on the item, or one with another value. -/
theorem errorIsNew_iff {it : Item} {r : SdcRec} :
    it.errorIsNew r = true ↔ r.error = true ∧ (it.errored = false ∨ it.value ≠ r.value) := by
  simp [Item.errorIsNew]

/-- The context that MATCH leaves when it accepts a response for the item at its cursor (R132, R133). -/
def Context.accepted (c : Context) (it : Item) (r : SdcRec) : Context :=
  accept (c.emitIf (it.errorIsNew r) (.sdcError c.cursor it.address r.value)) it r

theorem exec_matchSdc_accept {s : State} {f : List Byte} {it : Item} (hm : s.ctx.marked = false)
    (hlt : s.ctx.cursor < s.ctx.count) (hcur : s.ctx.item? s.ctx.cursor = some it)
    (h : ¬ Discards it (decodeSdc (f.take sdcLen))) :
    exec (.matchSdc f) s =
      .next ((s.withCtx (s.ctx.accepted it (decodeSdc (f.take sdcLen)))).return .noValue) :=
  exec_matchSdc_ok hm (matchRec_accept hlt hcur h)

theorem accepted_item? (c : Context) (it : Item) (r : SdcRec) (k : Nat) : (c.accepted it r).item? k =
    if k = c.cursor then some { it with busyCycles := 0, completed := true, value := r.value, errored := r.error }
    else c.item? k := by
  simp [Context.accepted, accept_item?]

theorem accepted_events (c : Context) (it : Item) (r : SdcRec) : (c.accepted it r).events = c.events ++
    if r.error = true ∧ (it.errored = false ∨ it.value ≠ r.value)
    then [.diag (.sdcError c.cursor it.address r.value)] else [] := by
  rw [Context.accepted, accept_events, Context.emitIf_events, if_congr errorIsNew_iff rfl rfl]
  split
  · rfl
  · exact (List.append_nil _).symm

theorem keepsAllBut_accepted (s : State) (it : Item) (r : SdcRec) :
    KeepsAllBut [.slots, .cursor, .events] s ((s.withCtx (s.ctx.accepted it r)).return .noValue) := by
  intro p hp
  cases p with
  | slots => simp at hp
  | cursor => simp at hp
  | events => simp at hp
  | _ => simp [Part.Same, Context.accepted, Context.txByte]

/-- Settles O20: MATCH keeps its context when it discards; when it does not, it accepts. -/
theorem matchDiscards : Obligations.MatchDiscards := by
  refine fun s f it hm _ hlt hcur => ⟨fun h => exec_matchSdc_ok hm (matchRec_discard hlt hcur h), fun h => ?_⟩
  exact ⟨_, _, exec_matchSdc_accept hm hlt hcur h, (accepted_item? s.ctx it _ _).trans (if_pos rfl), rfl, rfl⟩

/-- Settles O21: the context that an accepting MATCH leaves, part by part. -/
theorem matchAccepts : Obligations.MatchAccepts := by
  intro s f r it hm _ hr hlt hcur h
  subst hr
  have hitem := accepted_item? s.ctx it (decodeSdc (f.take sdcLen))
  refine ⟨_, exec_matchSdc_accept hm hlt hcur h, (hitem _).trans (if_pos rfl), ?cursor, accepted_events s.ctx it _,
    fun k hk => (hitem k).trans (if_neg hk), keepsAllBut_accepted s it _⟩
  case cursor => simp [Context.accepted]

/-! ### What a completion carries -/

/-- The item `it'` is `it` completed by a response that MATCH does not discard (R131, R133). -/
structure CompletedBy (r : SdcRec) (it it' : Item) : Prop where
  kept : ¬ Discards it r
  value : it'.value = r.value
  errored : it'.errored = r.error

/-- R131: a write confirmation that MATCH does not discard echoes the item's value. -/
theorem CompletedBy.value_of_write {r : SdcRec} {it it' : Item} (h : CompletedBy r it it') (hw : it.isWrite = true)
    (he : it'.errored = false) : it'.value = it.value := by
  obtain ⟨hkept, hvalue, herrored⟩ := h
  simp only [Discards, not_or, not_and, not_not] at hkept
  obtain ⟨_, hwrite, hecho⟩ := hkept
  exact hvalue.trans (hecho (hwrite.trans hw) (herrored.symm.trans he))

/-- SCHED completes no item and writes no item's address, write flag or value (R121, R123). -/
theorem sched_keeps_item {p : Params} {c c' : Context} (h : sched p c = .ok c') {k : Nat} {it : Item}
    (hit : c.item? k = some it) : ∃ it₁, c'.item? k = some it₁ ∧ it₁.address = it.address ∧ it₁.isWrite = it.isWrite ∧
      it₁.value = it.value ∧ it₁.completed = it.completed := by
  rcases sched_item? h k with e | ⟨cur, hcur, e⟩
  · exact ⟨it, e.trans hit, rfl, rfl, rfl, rfl⟩
  · cases hit.symm.trans hcur
    rcases e with ⟨_, _, _, e⟩ | ⟨_, e⟩ <;> exact ⟨_, e, rfl, rfl, rfl, rfl⟩

section Completion

variable {k : Nat} {it it' : Item} (hn : it.completed = false) (hc : it'.completed = true)
include hn hc

/-- A slot whose item becomes completed changes. -/
theorem slot_ne_of_completes {slot slot' : Option Item} (hit : slot = some it) (hit' : slot' = some it') :
    slot' ≠ slot := by
  intro e
  cases hit.symm.trans (e.symm.trans hit')
  exact absurd hc (by simp [hn])

/-- R131, R133: MATCH completes an item only by accepting its response. -/
theorem matchRec_completes {c c' : Context} {r : SdcRec} (h : matchRec c r = .ok c') (hit : c.item? k = some it)
    (hit' : c'.item? k = some it') : CompletedBy r it it' := by
  rcases matchRec_item? h k with e | ⟨cur, _, hcur, hmismatch, hecho, e⟩
  · exact absurd e (slot_ne_of_completes hn hc hit hit')
  · cases hit.symm.trans hcur
    cases hit'.symm.trans e
    exact ⟨not_discards_iff.mpr ⟨hmismatch, hecho⟩, rfl, rfl⟩

/-- R145: the exchange completes an item only by its MATCH on the bytes it received. -/
theorem exchange_completes {a : Answer} {s t : State} (h : exchange a s = .next t) (hit : s.ctx.item? k = some it)
    (hit' : t.ctx.item? k = some it') : ∃ f, a = .bytes f ∧ CompletedBy (decodeSdc (f.take sdcLen)) it it' := by
  have hchanged := slot_ne_of_completes hn hc hit hit'
  rcases exchange_ctx h with ⟨_, _, e⟩ | ⟨_, _, _, _, e⟩ | ⟨f, ha, _, _, hm⟩
  · exact absurd (by rw [e]; rfl) hchanged
  · exact absurd (by rw [e]; rfl) hchanged
  · exact ⟨f, ha, matchRec_completes hn hc hm hit hit'⟩

/-- R135: a CYCLE completes an item only by the MATCH on the bytes it received. -/
theorem execCycle_completes {a : Answer} {s t : State} (h : execCycle a s = .next t) (hit : s.ctx.item? k = some it)
    (hit' : t.ctx.item? k = some it') : ∃ f, a = .bytes f ∧ CompletedBy (decodeSdc (f.take sdcLen)) it it' := by
  have hchanged := slot_ne_of_completes hn hc hit hit'
  rcases execCycle_next h with ⟨_, rfl⟩ | ⟨_, _, rfl⟩ | ⟨_, _, ⟨_, rfl⟩ | ⟨c, hs, he⟩⟩
  · exact absurd rfl hchanged
  · exact absurd rfl hchanged
  · exact absurd rfl hchanged
  · obtain ⟨it₁, hit₁, haddress, hwrite, hvalue, hcompleted⟩ := sched_keeps_item hs hit
    obtain ⟨f, ha, hkept, htaken, herror⟩ := exchange_completes (hcompleted.trans hn) hc he hit₁ hit'
    rw [Discards, haddress, hwrite, hvalue] at hkept
    exact ⟨f, ha, hkept, htaken, herror⟩

end Completion

/-- R111: the value of a received sub-frame is the frame's first two bytes. -/
theorem toNat_value_decodeSdc (f : List Byte) : (decodeSdc (f.take sdcLen)).value.toNat = memRead f 0 2 := by
  have hbyte : ∀ o, o < sdcLen → byteAt (f.take sdcLen) o = byteAt f o := fun o ho => by
    simp [byteAt, List.getD_eq_getElem?_getD, List.getElem?_take_of_lt ho]
  have hvalue : (decodeSdc (f.take sdcLen)).value = le16 f 0 := by
    rw [decodeSdc, le16, hbyte 1 (by decide), hbyte 0 (by decide)]
    rfl
  rw [hvalue, toNat_le16]

/-- Settles O23: the CYCLE's MATCH completed the item, from the frame's first two bytes. -/
theorem completionTakesTheInboundValue : Obligations.CompletionTakesTheInboundValue := by
  intro s t f k it it' _ h hit hit' hn hc
  obtain ⟨g, hg, hcompleted⟩ := execCycle_completes hn hc h hit hit'
  cases hg
  exact ⟨by rw [hcompleted.value, toNat_value_decodeSdc], hcompleted.value_of_write⟩

end Sys2Proof.Machine
end

section
/-!
PROOFS of 44_orchestrator.md: how a CYCLE ends (R141 to R146, R175). After SCHED and STAMP a CYCLE is the exchange, so each
failure and the success are one way the exchange goes on; with every slot in use configured neither SCHED nor MATCH stops, so
that every CYCLE ends in one of the cases of `execCycle_next`.
-/

namespace Sys2Proof.Machine

/-! ### A CYCLE before its exchange -/

theorem execCycle_of_not_opened {s : State} (hm : s.ctx.marked = false) (ho : s.ctx.transport ≠ .opened) (a : Answer) :
    execCycle a s = .next (s.return .notReady) :=
  (unlessMarked_of_unmarked hm _).trans (if_pos ho)

/-- Settles O24: a CYCLE tests the transport before SCHED. -/
theorem cycleNotReady : Obligations.CycleNotReady :=
  fun _ a hm ho => execCycle_of_not_opened hm ho a

/-- What SCHED and STAMP leave when SCHED does not fault. -/
theorem CycleFront.exists_sched {s u : State} (h : CycleFront s u) (hm : s.ctx.marked = false) :
    ∃ c, sched s.params s.ctx = .ok c ∧ c.marked = false ∧ u = (s.withCtx (stamp c)).return .noValue := by
  obtain ⟨s₁, hsched, hm₁, hstamp⟩ := h
  rw [exec_sched, execSched, unlessMarked_of_unmarked hm] at hsched
  rcases andThen_next hsched with ⟨c, hc, hs₁⟩ | ⟨_, rfl⟩
  · cases hs₁
    cases (exec_stamp_of_unmarked hm₁).symm.trans hstamp
    exact ⟨c, hc, hm₁, rfl⟩
  · cases hm₁

/-- The exchange reads no earlier result. -/
theorem exchange_return (a : Answer) (s : State) (r : Result) : exchange a (s.return r) = exchange a s := by
  cases a with
  | fail => rfl
  | bytes f =>
    cases hv : validate f
    · rw [exchange_of_invalid hv, exchange_of_invalid hv]
      rfl
    · rw [exchange_of_valid hv, exchange_of_valid hv, State.return_ctx]
      rcases matchRec (s.ctx.receive f) (decodeSdc (f.take sdcLen)) with (_ | _) | _ <;> rfl

section Front

variable {s u : State} (h : CycleFront s u) (hm : s.ctx.marked = false)
include h hm

theorem CycleFront.unmarked : u.ctx.marked = false := by
  obtain ⟨c, _, hc, rfl⟩ := h.exists_sched hm
  exact hc

/-- R140: after SCHED and STAMP a CYCLE is its exchange. -/
theorem CycleFront.exec_cycle_eq (ho : s.ctx.transport = .opened) (a : Answer) :
    exec (.cycle a) s = exchange a u := by
  obtain ⟨c, hs, _, rfl⟩ := h.exists_sched hm
  rw [exchange_return, exec_cycle, execCycle_of_opened hm ho, hs]
  rfl

end Front

/-! ### The three ends of the exchange -/

/-- Settles O25: the exchange that fails leaves its record alone. -/
theorem cycleTransportFailure : Obligations.CycleTransportFailure :=
  fun _ _ hm ho h => h.exec_cycle_eq hm ho .fail

theorem Context.reject_eq (p : Params) (c : Context) (f : List Byte) : c.reject p f =
    { c with
      events := c.events ++ [.exchange c.tx.frame (.bytes f)] ++
        (if c.crcFailCount = 0 then [.diag .crcMismatch] else [])
      crcFailCount := min (c.crcFailCount + 1) p.crcFailSat } :=
  crcFailure_eq p _

theorem Context.receive_eq (c : Context) (f : List Byte) : c.receive f =
    { c with
      events := c.events ++ [.exchange c.tx.frame (.bytes f)] ++
        (if 0 < c.crcFailCount then [.diag (.crcRecovered c.crcFailCount)] else [])
      crcFailCount := 0
      rx := some (Memory.ofFrame f) } :=
  commit_eq _ f

/-- Settles O26: the exchange of an invalid frame leaves the rejecting context. -/
theorem cycleChecksumFailure : Obligations.CycleChecksumFailure := by
  intro s u f hm ho h _ hv
  rw [h.exec_cycle_eq hm ho, exchange_of_invalid hv, Context.reject_eq]
  rfl

/-- Everything MATCH as itself can do from an unmarked context. -/
theorem exec_matchSdc_next {s w : State} {f : List Byte} (hm : s.ctx.marked = false)
    (h : exec (.matchSdc f) s = .next w) :
    ∃ c, matchRec s.ctx (decodeSdc (f.take sdcLen)) = .ok c ∧ w = (s.withCtx c).return .noValue := by
  rw [exec_matchSdc, execMatch, unlessMarked_of_unmarked hm] at h
  rcases andThen_next h with ⟨c, hc, hw⟩ | ⟨hc, _⟩
  · cases hw
    exact ⟨c, hc, rfl⟩
  · exact absurd hc (matchRec_ne_cursorOutOfRange _ _)

/-- Settles O27: the exchange of a valid frame is MATCH on the receiving context, which holds the frame in rx. -/
theorem cycleSuccess : Obligations.CycleSuccess := by
  intro s u w f hm ho h hf hv hmatch
  rw [← Context.receive_eq] at hmatch
  have hunmarked : (u.ctx.receive f).marked = false := by
    rw [Context.receive_eq]
    exact h.unmarked hm
  obtain ⟨c, hc, rfl⟩ := exec_matchSdc_next (s := u.withCtx (u.ctx.receive f)) hunmarked hmatch
  obtain ⟨_, _, hrx, _, _, _, _⟩ := matchRec_keeps hc
  refine ⟨?_, _, hrx, Memory.frame_ofFrame (beq_iff_eq.mpr hf)⟩
  rw [State.withCtx_ctx] at hc
  rw [h.exec_cycle_eq hm ho, exchange_of_valid hv, hc]
  rfl

/-! ### Every CYCLE completes -/

/-- An operation whose sub-step does not read an empty slot completes if it completes after the sub-step. -/
theorem andThen_completes {s : State} {r : Except EngineStop Context} {k : State → Out} (hr : r ≠ .error .emptySlotRead)
    (hk : ∀ c, r = .ok c → ∃ t, k (s.withCtx c) = .next t) : ∃ t, s.andThen r k = .next t := by
  match r with
  | .ok c => exact hk c rfl
  | .error .cursorOutOfRange => exact ⟨_, rfl⟩
  | .error .emptySlotRead => exact absurd rfl hr

section Configured

variable {c : Context} (h : c.Configured)
include h

theorem sched_ne_emptySlotRead (p : Params) : sched p c ≠ .error .emptySlotRead := by
  intro hs
  obtain ⟨k, hk, hnone⟩ := sched_empty_read hs
  simpa [hnone] using h k hk

theorem matchRec_ne_emptySlotRead (r : SdcRec) : matchRec c r ≠ .error .emptySlotRead := by
  intro hr
  unfold matchRec at hr
  split at hr
  · cases hr
  next hlt =>
  split at hr
  · next hnone => simpa [hnone] using h c.cursor (by omega)
  · cases hr

theorem receive_configured (f : List Byte) : (c.receive f).Configured := by
  rw [Context.receive_eq]
  exact h

end Configured

/-- R143 to R145: the exchange completes with every slot in use configured. -/
theorem exchange_next_of_configured {s : State} (h : s.ctx.Configured) (a : Answer) : ∃ t, exchange a s = .next t := by
  cases a with
  | fail => exact ⟨_, rfl⟩
  | bytes f =>
    cases hv : validate f
    · exact ⟨_, exchange_of_invalid hv s⟩
    · rw [exchange_of_valid hv]
      exact andThen_completes (matchRec_ne_emptySlotRead (receive_configured h f) _) fun c _ => ⟨_, rfl⟩

theorem execCycle_next_of_inv {s : State} (h : s.Inv) (hm : s.ctx.marked = false) (a : Answer) :
    ∃ t, execCycle a s = .next t := by
  by_cases ho : s.ctx.transport = .opened
  · rw [execCycle_of_opened hm ho]
    refine andThen_completes (sched_ne_emptySlotRead h.configured _) fun c hc => ?_
    have hstamped := (stamp_keeps_inv (sched_keeps_inv h hc)).configured
    exact exchange_next_of_configured (s := s.withCtx (stamp c)) hstamped a
  · exact ⟨_, execCycle_of_not_opened hm ho a⟩

/-! ### The result of a CYCLE -/

/-- The result of an exchange, which its answer determines (R143 to R145). -/
def exchangeResult : Answer → Result
  | .fail => .xferFail
  | .bytes f => if validate f then .ok else .crcFail

theorem exchangeResult_ne_faulted (a : Answer) (why : FaultReason) : exchangeResult a ≠ .faulted why := by
  cases a with
  | fail => nofun
  | bytes f => cases hv : validate f <;> simp [exchangeResult, hv]

theorem exchange_result {a : Answer} {s t : State} (h : exchange a s = .next t) : t.result = some (exchangeResult a) := by
  rcases exchange_next h with ⟨rfl, rfl⟩ | ⟨f, rfl, hv, rfl⟩ | ⟨f, c, rfl, hv, _, rfl⟩
  · rfl
  · simp [exchangeResult, hv]
  · simp [exchangeResult, hv]

/-- R40: neither SCHED, STAMP nor the exchange marks the context. -/
theorem exchange_of_sched_marked {p : Params} {c : Context} {a : Answer} {s t : State} (hs : sched p s.ctx = .ok c)
    (h : exchange a (s.withCtx (stamp c)) = .next t) : t.ctx.marked = s.ctx.marked := by
  obtain ⟨_, _, _, _, hfault, hrefused⟩ := sched_keeps hs
  obtain ⟨_, _, _, hfault', hrefused'⟩ := exchange_keeps h
  simp [Context.marked, hfault, hrefused, hfault', hrefused']

/-- Settles O28: the CYCLE completes in one of its four ways, and its fault is the one way that leaves a mark. -/
theorem cycleCompletesWithOneResult : Obligations.CycleCompletesWithOneResult := by
  intro s a h hm _
  obtain ⟨t, ht⟩ := execCycle_next_of_inv h hm a
  refine ⟨t, ht, ?_⟩
  rcases execCycle_next ht with ⟨hmarked, _⟩ | ⟨_, ho, rfl⟩ | ⟨_, ho, ⟨hs, rfl⟩ | ⟨c, hs, he⟩⟩
  · simp [hm] at hmarked
  · simp [ho, hm]
  · obtain ⟨hne, hout⟩ := sched_fault_iff.mp hs
    simp [ho, hout, Nat.pos_of_ne_zero hne, Context.marked]
  · have hin : ¬ (0 < s.ctx.count ∧ s.ctx.count ≤ s.ctx.cursor) := fun ⟨hpos, hout⟩ => by
      cases hs.symm.trans (sched_fault_iff.mpr ⟨Nat.ne_of_gt hpos, hout⟩)
    have hresult := exchange_result he
    rw [if_neg (not_not_intro ho), if_neg hin, exchange_of_sched_marked hs he, hm, hresult]
    exact ⟨by cases a <;> rfl, by simp [exchangeResult_ne_faulted]⟩

end Sys2Proof.Machine
end

section
/-!
PROOFS of 45_host.md: the host port (R150 to R160). On an unmarked context a host operation goes on with what its checks admit
or is refused with their reason, so each statement is the cases of one check, in the order its rule states them, and what is
left by the write that the check guards.
-/

namespace Sys2Proof.Machine

/-! ### A checked operation on an unmarked context -/

section

variable {s : State} {i : Instr}

/-- R150, R179: a checked operation is refused with the reason of its checks. -/
theorem refusedWith_of_checked {α : Type} {r : Except RefuseReason α} {k : α → State} {why : RefuseReason}
    (h : exec i s = s.checked r k) (hr : r = .error why) : RefusedWith i s why := by
  rw [RefusedWith, h, hr]
  rfl

/-- R150: a checked operation goes on with what its checks admit. -/
theorem checked_of_ok {α : Type} {r : Except RefuseReason α} {a : α} (hr : r = .ok a) (k : α → State) :
    s.checked r k = .next (k a) := by
  rw [hr]
  rfl

/-- R150: a checked operation completes, whatever its checks answer. -/
theorem completes_of_checked {α : Type} {r : Except RefuseReason α} {k : α → State} (h : exec i s = s.checked r k) :
    ∃ t, exec i s = .next t := by
  cases hr : r with
  | ok a => exact ⟨_, h.trans (checked_of_ok hr k)⟩
  | error why => exact ⟨_, refusedWith_of_checked h hr⟩

variable (hm : s.ctx.marked = false)
include hm

theorem exec_hSetCount_checked (n : Nat) : exec (.hSetCount n) s =
    s.checked (checkCount s.params s.ctx n) fun n => (s.withCtx { s.ctx with count := n }).return .ok :=
  (exec_hSetCount n s).trans (unlessMarked_of_unmarked hm _)

theorem exec_hConfig_checked (k : Nat) (r : RawItem) : exec (.hConfig k r) s =
    s.checked (checkConfig s.params k r) (s.putItemOk k) :=
  (exec_hConfig k r s).trans (unlessMarked_of_unmarked hm _)

theorem exec_hWriteItem_checked (k : Nat) (field : ItemField) (v : Nat) : exec (.hWriteItem k field v) s =
    s.checked (checkWriteItem s.params s.ctx k field v) (s.putItemOk k) :=
  (exec_hWriteItem k field v s).trans (unlessMarked_of_unmarked hm _)

theorem exec_hReadItem_checked (k : Nat) : exec (.hReadItem k) s =
    s.checked (checkSlot s.params s.ctx k) fun it => s.return (.item it) :=
  (exec_hReadItem k s).trans (unlessMarked_of_unmarked hm _)

theorem exec_hWriteTx_checked (o b : Nat) : exec (.hWriteTx o b) s =
    s.checked (checkWriteTx o b) (s.putTxOk o) :=
  (exec_hWriteTx o b s).trans (unlessMarked_of_unmarked hm _)

theorem exec_hReadTx_checked (o : Nat) : exec (.hReadTx o) s =
    s.checked (checkReadTx s.ctx o) fun b => s.return (.byte b) :=
  (exec_hReadTx o s).trans (unlessMarked_of_unmarked hm _)

theorem exec_hReadRx_checked (o : Nat) : exec (.hReadRx o) s =
    s.checked (checkReadRx s.ctx o) fun b => s.return (.byte b) :=
  (exec_hReadRx o s).trans (unlessMarked_of_unmarked hm _)

end

/-! ### H.SETCOUNT -/

theorem configured_iff_ne_none (c : Context) (n : Nat) : c.configured n = true ↔ ∀ k, k < n → c.item? k ≠ none := by
  simp [configured_iff, Option.isSome_iff_ne_none]

section

variable {p : Params} {c : Context} {n : Nat}

theorem checkCount_of_capacity_lt (h : p.sdcCapacity < n) : checkCount p c n = .error .countTooLarge := if_pos h

theorem checkCount_of_configured_false (hn : n ≤ p.sdcCapacity) (h : c.configured n = false) :
    checkCount p c n = .error .unconfiguredSlot := by
  simp [checkCount, hn.not_gt, h]

theorem checkCount_of_configured (hn : n ≤ p.sdcCapacity) (h : c.configured n = true) : checkCount p c n = .ok n := by
  simp [checkCount, hn.not_gt, h]

end

/-- Settles O34: the three cases of H.SETCOUNT's check. -/
theorem setCountWritesCountOnly : Obligations.SetCountWritesCountOnly := by
  intro s n hm
  have hchecked := exec_hSetCount_checked hm n
  refine ⟨fun hn => ?tooLarge, fun hn hempty => ?unconfigured, fun hn hfull => ?counts⟩
  case tooLarge => exact refusedWith_of_checked hchecked (checkCount_of_capacity_lt hn)
  case unconfigured =>
    obtain ⟨k, hk, hnone⟩ := hempty
    have hcfg : s.ctx.configured n = false :=
      Bool.eq_false_iff.mpr fun hcfg => (configured_iff_ne_none s.ctx n).mp hcfg k hk hnone
    exact refusedWith_of_checked hchecked (checkCount_of_configured_false hn hcfg)
  case counts =>
    exact hchecked.trans (checked_of_ok (checkCount_of_configured hn ((configured_iff_ne_none s.ctx n).mpr hfull)) _)

/-! ### The numbers a field admits -/

@[simp] theorem isBit_eq_true_iff (v : Nat) : isBit v = true ↔ v ≤ 1 := by
  simp only [isBit, Bool.or_eq_true, beq_iff_eq]
  omega

theorem toNat_ofNat_of_lt {w v : Nat} (h : v < 2 ^ w) : (BitVec.ofNat w v).toNat = v := by
  rw [BitVec.toNat_ofNat, Nat.mod_eq_of_lt h]

theorem toNat_beq_one {v : Nat} (h : v ≤ 1) : (v == 1).toNat = v := by
  interval_cases v <;> rfl

/-- R23: a field admits the numbers up to its bound, and every number when it has none. -/
theorem fieldAdmits_iff (field : ItemField) (v : Nat) :
    fieldAdmits field v = true ↔ ∀ b, fieldBound field = some b → v ≤ b := by
  cases field <;> simp [fieldAdmits, fieldBound]

/-- A number that the field admits is the number the field then holds. -/
theorem fieldNat_setField_same (it : Item) {field : ItemField} {v : Nat} (h : fieldAdmits field v = true) :
    fieldNat (it.setField field v) field = v := by
  have hbound := (fieldAdmits_iff field v).mp h
  cases field with
  | address => exact toNat_ofNat_of_lt (Nat.lt_succ_of_le (hbound _ rfl))
  | value => exact toNat_ofNat_of_lt (Nat.lt_succ_of_le (hbound _ rfl))
  | factor | factorCounter | busyCycles => rfl
  | isWrite | requested | completed | errored => exact toNat_beq_one (hbound _ rfl)

theorem fieldNat_setField_ne (it : Item) {field g : ItemField} (h : g ≠ field) (v : Nat) :
    fieldNat (it.setField field v) g = fieldNat it g := by
  cases field <;> cases g <;> simp [Item.setField, fieldNat] at h ⊢

/-! ### H.CONFIG -/

section

variable {p : Params} {k : Nat} {r : RawItem}

theorem checkConfig_of_capacity_le (hk : p.sdcCapacity ≤ k) : checkConfig p k r = .error .slotOutOfRange := if_pos hk

variable (hk : k < p.sdcCapacity)
include hk

theorem checkConfig_of_wide_address (ha : 0xFFF < r.address) : checkConfig p k r = .error .addressTooWide := by
  simp [checkConfig, hk.not_ge, ha]

theorem checkConfig_of_wide_value (ha : r.address ≤ 0xFFF) (hv : 0xFFFF < r.value) :
    checkConfig p k r = .error .valueTooWide := by
  simp [checkConfig, hk.not_ge, ha.not_gt, hv]

theorem checkConfig_of_busy (ha : r.address ≤ 0xFFF) (hv : r.value ≤ 0xFFFF) (hb : r.busyCycles ≠ 0) :
    checkConfig p k r = .error .busyWrite := by
  simp [checkConfig, hk.not_ge, ha.not_gt, hv.not_gt, hb]

/-- R154's last check: the four flags are bits. -/
theorem checkConfig_eq_of_not_busy (ha : r.address ≤ 0xFFF) (hv : r.value ≤ 0xFFFF) (hb : r.busyCycles = 0) :
    checkConfig p k r = if isBit r.isWrite && isBit r.requested && isBit r.completed && isBit r.errored
      then .ok (rawToItem r) else .error .notABit := by
  rw [checkConfig, if_neg hk.not_ge, if_neg ha.not_gt, if_neg hv.not_gt, if_neg (not_not_intro hb)]
  cases isBit r.isWrite && isBit r.requested && isBit r.completed && isBit r.errored <;> rfl

theorem checkConfig_of_not_bit (ha : r.address ≤ 0xFFF) (hv : r.value ≤ 0xFFFF) (hb : r.busyCycles = 0)
    (h : ¬ RecordFits r) : checkConfig p k r = .error .notABit := by
  refine (checkConfig_eq_of_not_busy hk ha hv hb).trans (if_neg fun hbits => h ?_)
  simpa [RecordFits, ha, hv, hb, and_assoc] using hbits

theorem checkConfig_of_fits (h : RecordFits r) : checkConfig p k r = .ok (rawToItem r) := by
  obtain ⟨ha, hv, hb, hw, hr, hc, he⟩ := h
  exact (checkConfig_eq_of_not_busy hk ha hv hb).trans (if_pos (by simp [hw, hr, hc, he]))

end

/-- Settles O35: the six cases of H.CONFIG's check; the item of an admitted record holds the record's numbers. -/
theorem configWritesOneSlot : Obligations.ConfigWritesOneSlot := by
  intro s k r hm
  have hchecked := exec_hConfig_checked hm k r
  refine ⟨fun hk => refusedWith_of_checked hchecked (checkConfig_of_capacity_le hk), fun hk =>
    ⟨fun ha => refusedWith_of_checked hchecked (checkConfig_of_wide_address hk ha),
      fun ha hv => refusedWith_of_checked hchecked (checkConfig_of_wide_value hk ha hv),
      fun ha hv hb => refusedWith_of_checked hchecked (checkConfig_of_busy hk ha hv hb),
      fun ha hv hb hbits => refusedWith_of_checked hchecked (checkConfig_of_not_bit hk ha hv hb hbits),
      fun hfits => ?_⟩⟩
  have ⟨ha, hv, hb, hw, hr, hc, he⟩ := hfits
  obtain ⟨hslot, hother, hkeeps⟩ := writesSlot_putItemOk s k (rawToItem r)
  exact ⟨_, _, hchecked.trans (checked_of_ok (checkConfig_of_fits hk hfits) _), rfl, hslot,
    toNat_ofNat_of_lt (Nat.lt_succ_of_le ha), toNat_ofNat_of_lt (Nat.lt_succ_of_le hv), rfl, rfl,
    toNat_beq_one hw, toNat_beq_one hr, hb, toNat_beq_one hc, toNat_beq_one he, hother, hkeeps⟩

/-! ### H.WRITEITEM -/

section

variable {p : Params} {c : Context} {k v : Nat} {field : ItemField} {it : Item}

theorem checkSlot_of_none (h : p.sdcCapacity ≤ k ∨ c.item? k = none) : checkSlot p c k = .error .unconfiguredSlot := by
  rcases h with hk | hnone
  · exact if_pos hk
  · simp [checkSlot, hnone]

theorem checkSlot_of_some (hk : k < p.sdcCapacity) (hit : c.item? k = some it) : checkSlot p c k = .ok it := by
  simp [checkSlot, hk.not_ge, hit]

theorem checkWriteItem_of_slot_error {why : RefuseReason} (h : checkSlot p c k = .error why) :
    checkWriteItem p c k field v = .error why := by
  simp [checkWriteItem, h]

theorem checkWriteItem_of_busy (h : checkSlot p c k = .ok it) (hv : v ≠ 0) :
    checkWriteItem p c k .busyCycles v = .error .busyWrite := by
  simp [checkWriteItem, h, hv]

theorem checkWriteItem_of_bound_lt {b : Nat} (h : checkSlot p c k = .ok it) (hb : fieldBound field = some b)
    (hv : b < v) : checkWriteItem p c k field v = .error .outOfRange := by
  have hbusy : field ≠ .busyCycles := by
    rintro rfl
    cases hb
  have hadmits : fieldAdmits field v = false :=
    Bool.eq_false_iff.mpr fun hadm => ((fieldAdmits_iff field v).mp hadm b hb).not_gt hv
  simp [checkWriteItem, h, hbusy, hadmits]

end

/-- Settles O36: the four cases of H.WRITEITEM's check, and one field of the item after an admitted write. -/
theorem writeItemWritesOneField : Obligations.WriteItemWritesOneField := by
  intro s k field v hm
  have hchecked := exec_hWriteItem_checked hm k field v
  refine ⟨fun h => refusedWith_of_checked hchecked (checkWriteItem_of_slot_error (checkSlot_of_none h)),
    fun it hk hit => ?_⟩
  have hslot := checkSlot_of_some hk hit
  refine ⟨?busy, fun b hb hv => refusedWith_of_checked hchecked (checkWriteItem_of_bound_lt hslot hb hv),
    fun hbusy hbound => ?writes⟩
  case busy =>
    rintro rfl hv
    exact refusedWith_of_checked hchecked (checkWriteItem_of_busy hslot hv)
  case writes =>
    have hadmits := (fieldAdmits_iff field v).mpr hbound
    obtain ⟨hitem, hother, hkeeps⟩ := writesSlot_putItemOk s k (it.setField field v)
    exact ⟨_, _, exec_hWriteItem_ok hm hk hit (fun ⟨hf, hv⟩ => hv (hbusy hf)) hadmits, rfl, hitem,
      fieldNat_setField_same it hadmits, fun g hg => fieldNat_setField_ne it hg v, hother, hkeeps⟩

/-! ### The reads -/

section

variable {c : Context} {o : Nat}

theorem checkReadTx_of_lt (h : o < nFrame) : checkReadTx c o = .ok (c.txByte o) := if_neg h.not_ge

theorem checkReadTx_of_le (h : nFrame ≤ o) : checkReadTx c o = .error .outOfRange := if_pos h

theorem checkReadRx_of_le (h : nFrame ≤ o) : checkReadRx c o = .error .outOfRange := if_pos h

theorem checkReadRx_of_some {m : Memory} (h : o < nFrame) (hrx : c.rx = some m) :
    checkReadRx c o = .ok (m.read o) := by
  simp [checkReadRx, h.not_ge, hrx]

theorem checkReadRx_of_none (h : o < nFrame) (hrx : c.rx = none) : checkReadRx c o = .error .rxEmpty := by
  simp [checkReadRx, h.not_ge, hrx]

end

/-- Settles O37: H.READCTX has no check; each other read has the cases of its own. -/
theorem hostReadsReturnAndChangeNothing : Obligations.HostReadsReturnAndChangeNothing := by
  intro s hm
  refine ⟨answer_of_unmarked hm _, fun k it hk hit => ?item, fun k h => ?noItem, fun o ho => ?tx,
    fun o ho => ⟨?txRange, ?rxRange⟩, fun o m ho hrx => ?rx, fun o ho hrx => ?rxEmpty⟩
  case item => exact (exec_hReadItem_checked hm k).trans (checked_of_ok (checkSlot_of_some hk hit) _)
  case noItem => exact refusedWith_of_checked (exec_hReadItem_checked hm k) (checkSlot_of_none h)
  case tx => exact (exec_hReadTx_checked hm o).trans (checked_of_ok (checkReadTx_of_lt ho) _)
  case txRange => exact refusedWith_of_checked (exec_hReadTx_checked hm o) (checkReadTx_of_le ho)
  case rxRange => exact refusedWith_of_checked (exec_hReadRx_checked hm o) (checkReadRx_of_le ho)
  case rx => exact (exec_hReadRx_checked hm o).trans (checked_of_ok (checkReadRx_of_some ho hrx) _)
  case rxEmpty => exact refusedWith_of_checked (exec_hReadRx_checked hm o) (checkReadRx_of_none ho hrx)

/-! ### H.WRITETX -/

theorem checkWriteTx_of_protected {o b : Nat} (h : o < 4 ∨ 23 < o) : checkWriteTx o b = .error .txRegionProtected :=
  if_pos h

theorem checkWriteTx_of_wide {o b : Nat} (h4 : 4 ≤ o) (h23 : o ≤ 23) (hb : 0xFF < b) :
    checkWriteTx o b = .error .outOfRange :=
  (if_neg (not_or.mpr ⟨h4.not_gt, h23.not_gt⟩)).trans (if_pos hb)

/-- Settles O38: the three cases of H.WRITETX's check, and the byte that an admitted write stores. -/
theorem writeTxWritesProcessData : Obligations.WriteTxWritesProcessData := by
  intro s o b hm hw
  have hchecked := exec_hWriteTx_checked hm o b
  refine ⟨fun ho => refusedWith_of_checked hchecked (checkWriteTx_of_protected ho),
    fun h4 h23 hb => refusedWith_of_checked hchecked (checkWriteTx_of_wide h4 h23 hb), fun h4 h23 hb => ?_⟩
  have hbyte := txByte_putTxOk hw o (BitVec.ofNat 8 b)
  refine ⟨_, exec_hWriteTx_ok hm h4 h23 hb, rfl, ?_, fun p hp => (hbyte p).trans (if_neg hp), keepsAllBut_putTxOk s o _⟩
  rw [hbyte, if_pos rfl]
  exact toNat_ofNat_of_lt (Nat.lt_succ_of_le hb)

/-! ### H.OPEN and H.CLOSE -/

section

variable {s : State} (hm : s.ctx.marked = false)
include hm

theorem exec_hOpen_ok_of_unopened (hu : s.ctx.transport = .unopened) :
    exec (.hOpen .ok) s = .next ((s.withCtx { s.ctx with transport := .opened }).return .ok) := by
  rw [exec_hOpen, execHOpen, unlessMarked_of_unmarked hm, if_neg (not_not_intro hu)]

theorem exec_hOpen_fail_of_unopened (hu : s.ctx.transport = .unopened) :
    exec (.hOpen .fail) s = .next ((s.withCtx (s.ctx.emit .setupFailure)).return .setupFail) := by
  rw [exec_hOpen, execHOpen, unlessMarked_of_unmarked hm, if_neg (not_not_intro hu)]

theorem refusedWith_openNotAllowed (hu : s.ctx.transport ≠ .unopened) (o : SetupOutcome) :
    RefusedWith (.hOpen o) s .openNotAllowed := by
  rw [RefusedWith, exec_hOpen, execHOpen, unlessMarked_of_unmarked hm, if_pos hu]
  rfl

theorem exec_hClose_of_opened (ho : s.ctx.transport = .opened) :
    exec .hClose s = .next ((s.withCtx { s.ctx with transport := .closed }).return .ok) := by
  rw [exec_hClose, execHClose, unlessMarked_of_unmarked hm, if_neg (not_not_intro ho)]

theorem refusedWith_closeNotOpen (ho : s.ctx.transport ≠ .opened) : RefusedWith .hClose s .closeNotOpen := by
  rw [RefusedWith, exec_hClose, execHClose, unlessMarked_of_unmarked hm, if_pos ho]
  rfl

end

/-- Settles O33: both operations test the transport state first, and H.OPEN then takes the setup's outcome. -/
theorem openAndCloseTheTransport : Obligations.OpenAndCloseTheTransport :=
  fun _ hm => ⟨fun hu => ⟨exec_hOpen_ok_of_unopened hm hu, exec_hOpen_fail_of_unopened hm hu⟩,
    fun o hu => refusedWith_openNotAllowed hm hu o, exec_hClose_of_opened hm, refusedWith_closeNotOpen hm⟩

end Sys2Proof.Machine
end

section
/-!
PROOFS of 45_host.md: no operation stops the machine from the invariant (R153; 70_reset_and_hazards.md R200). H.SETCOUNT covers
configured slots only, so that SCHED and MATCH never come to a slot that holds no value; every other operation completes, or is
refused with a mark, from any state.
-/

namespace Sys2Proof.Machine

/-! ### Operations that run neither SCHED nor MATCH -/

theorem completes_of_marked {s : State} (hm : s.ctx.marked = true) (i : Instr) : ∃ t, exec i s = .next t := by
  by_cases hi : i = .reset
  · exact ⟨_, hi ▸ exec_reset s⟩
  · exact ⟨_, exec_of_marked hm hi⟩

section

variable {s : State} (hm : s.ctx.marked = false)
include hm

theorem exec_hOpen_completes (o : SetupOutcome) : ∃ t, exec (.hOpen o) s = .next t := by
  by_cases hu : s.ctx.transport = .unopened
  · cases o with
    | ok => exact ⟨_, exec_hOpen_ok_of_unopened hm hu⟩
    | fail => exact ⟨_, exec_hOpen_fail_of_unopened hm hu⟩
  · exact ⟨_, refusedWith_openNotAllowed hm hu o⟩

theorem exec_hClose_completes : ∃ t, exec .hClose s = .next t := by
  by_cases ho : s.ctx.transport = .opened
  · exact ⟨_, exec_hClose_of_opened hm ho⟩
  · exact ⟨_, refusedWith_closeNotOpen hm ho⟩

end

/-! ### SCHED and MATCH with every slot in use configured -/

section

variable {s : State} (hm : s.ctx.marked = false) (h : s.ctx.Configured)
include hm h

theorem exec_sched_completes : ∃ t, exec .sched s = .next t := by
  rw [exec_sched, execSched, unlessMarked_of_unmarked hm]
  exact andThen_completes (sched_ne_emptySlotRead h _) fun _ _ => ⟨_, rfl⟩

theorem receiveSubframe_completes (r : SdcRec) : ∃ t, receiveSubframe r s = .next t := by
  rw [receiveSubframe, unlessMarked_of_unmarked hm]
  exact andThen_completes (matchRec_ne_emptySlotRead h r) fun _ _ => ⟨_, rfl⟩

/-- An outbound sub-frame kind completes, or SCHED leaves another sub-frame (log entry 5). -/
theorem sendSubframe_completes_or_refused (r : SdcRec) :
    (∃ t, sendSubframe r s = .next t) ∨ sendSubframe r s = .refused .subframeNotSent := by
  match hs : sched s.params s.ctx with
  | .ok c =>
    rw [send_eq hm hs]
    split
    · exact .inl ⟨_, rfl⟩
    · exact .inr rfl
  | .error .cursorOutOfRange =>
    have hfault : sendSubframe r s = .next (s.raiseFault .cursorOutOfRange) := by
      rw [sendSubframe, unlessMarked_of_unmarked hm, hs]
      rfl
    exact .inl ⟨_, hfault⟩
  | .error .emptySlotRead => exact absurd hs (sched_ne_emptySlotRead h _)

end

/-- Settles O47: with every slot in use configured SCHED and MATCH complete, and every operation that runs neither does. -/
theorem invariantNeverStops : Obligations.InvariantNeverStops := by
  intro s i h
  have hcfg := h.configured
  cases hm : s.ctx.marked with
  | true => exact .inl (completes_of_marked hm i)
  | false =>
    cases i with
    | sdcRdReq | sdcWrReq | sdcOutErr =>
      exact (sendSubframe_completes_or_refused hm hcfg _).imp_right fun hr => ⟨⟨_, rfl⟩, hr⟩
    | sdcRdResp | sdcWrEcho | sdcRdErr | sdcWrErr | matchSdc => exact .inl (receiveSubframe_completes hm hcfg _)
    | sched => exact .inl (exec_sched_completes hm hcfg)
    | stamp => exact .inl ⟨_, exec_stamp_of_unmarked hm⟩
    | cycle a => exact .inl (execCycle_next_of_inv h hm a)
    | crc16 | validate | sdcEnc | sdcDec | outEnc | outDec | inEnc | inDec | hReadCtx =>
      exact .inl ⟨_, answer_of_unmarked hm _⟩
    | hOpen o => exact .inl (exec_hOpen_completes hm o)
    | hClose => exact .inl (exec_hClose_completes hm)
    | hSetCount n => exact .inl (completes_of_checked (exec_hSetCount_checked hm n))
    | hConfig k r => exact .inl (completes_of_checked (exec_hConfig_checked hm k r))
    | hWriteItem k field v => exact .inl (completes_of_checked (exec_hWriteItem_checked hm k field v))
    | hReadItem k => exact .inl (completes_of_checked (exec_hReadItem_checked hm k))
    | hWriteTx o b => exact .inl (completes_of_checked (exec_hWriteTx_checked hm o b))
    | hReadTx o => exact .inl (completes_of_checked (exec_hReadTx_checked hm o))
    | hReadRx o => exact .inl (completes_of_checked (exec_hReadRx_checked hm o))
    | reset => exact .inl ⟨_, exec_reset s⟩

end Sys2Proof.Machine
end

section
/-!
PROOFS of 60_exceptions.md: the order of a CYCLE's events (R175), the fault of the cursor (R178) and the refusals (R179). Each
sub-step of a CYCLE appends at most one event of its own kind; the fault and the refusals are two of the effects of
`exec_effect`, and a marked context has no other than the refusal.
-/

namespace Sys2Proof.Machine

/-! ### The events of one CYCLE -/

/-- A part of the event sequence holds at most one event, and that event is of the given kind (R175). -/
def AtMostOne (kind : Event → Prop) (l : List Event) : Prop := l.length ≤ 1 ∧ ∀ e ∈ l, kind e

/-- The event that SCHED may append (42_scheduler.md R121). -/
def Event.IsSdcTimeout (e : Event) : Prop := ∃ k ad, e = .diag (.sdcTimeout k ad)

/-- The record of an exchange with the given answer (44_orchestrator.md R142). -/
def Event.IsExchange (a : Answer) (e : Event) : Prop := ∃ sent, e = .exchange sent a

/-- The event that the checksum's verdict may append (44_orchestrator.md R144, R145). -/
def Event.IsChecksumDiag (e : Event) : Prop := e = .diag .crcMismatch ∨ ∃ n, e = .diag (.crcRecovered n)

/-- The event that MATCH may append (43_matcher.md R132). -/
def Event.IsSdcError (e : Event) : Prop := ∃ k ad code, e = .diag (.sdcError k ad code)

section AtMostOne

variable {kind : Event → Prop}

theorem atMostOne_nil : AtMostOne kind [] := ⟨Nat.zero_le 1, nofun⟩

theorem atMostOne_singleton {e : Event} (h : kind e) : AtMostOne kind [e] :=
  ⟨le_rfl, fun _ he => List.mem_singleton.mp he ▸ h⟩

theorem atMostOne_ite {e : Event} {p : Prop} [Decidable p] (h : kind e) : AtMostOne kind (if p then [e] else []) := by
  split
  · exact atMostOne_singleton h
  · exact atMostOne_nil

end AtMostOne

theorem sched_appends_timeout {p : Params} {c c' : Context} (h : sched p c = .ok c') :
    ∃ l, c'.events = c.events ++ l ∧ AtMostOne Event.IsSdcTimeout l := by
  rcases sched_events h with e | ⟨k, ad, e⟩
  · exact ⟨[], by simp [e], atMostOne_nil⟩
  · exact ⟨_, e, atMostOne_singleton ⟨k, ad, rfl⟩⟩

theorem matchRec_appends_error {c c' : Context} {r : SdcRec} (h : matchRec c r = .ok c') :
    ∃ l, c'.events = c.events ++ l ∧ AtMostOne Event.IsSdcError l := by
  rcases matchRec_events h with e | ⟨k, ad, code, e⟩
  · exact ⟨[], by simp [e], atMostOne_nil⟩
  · exact ⟨_, e, atMostOne_singleton ⟨k, ad, code, rfl⟩⟩

/-- R142 to R145: the record of the exchange comes first, then the checksum's event, then MATCH's. -/
theorem exchange_appends_in_order {a : Answer} {s t : State} (h : exchange a s = .next t) :
    ∃ l m, t.ctx.events = s.ctx.events ++ [.exchange s.ctx.tx.frame a] ++ l ++ m ∧
      AtMostOne Event.IsChecksumDiag l ∧ AtMostOne Event.IsSdcError m := by
  rcases exchange_ctx h with ⟨_, _, e⟩ | ⟨_, _, _, _, e⟩ | ⟨_, _, _, _, hm⟩
  · exact ⟨[], [], by simp [e], atMostOne_nil, atMostOne_nil⟩
  · exact ⟨_, [], by rw [e, List.append_nil], atMostOne_ite (.inl rfl), atMostOne_nil⟩
  · obtain ⟨m, hm, herror⟩ := matchRec_appends_error hm
    exact ⟨_, m, hm, atMostOne_ite (.inr ⟨_, rfl⟩), herror⟩

/-- What one CYCLE may append to the event sequence (R175). -/
def CycleAppends (a : Answer) (before after : List Event) : Prop :=
  ∃ l1 l2 l3 l4, after = before ++ l1 ++ l2 ++ l3 ++ l4 ∧ AtMostOne Event.IsSdcTimeout l1 ∧
    AtMostOne (Event.IsExchange a) l2 ∧ AtMostOne Event.IsChecksumDiag l3 ∧ AtMostOne Event.IsSdcError l4

theorem CycleAppends.refl (a : Answer) (l : List Event) : CycleAppends a l l :=
  ⟨[], [], [], [], by simp, atMostOne_nil, atMostOne_nil, atMostOne_nil, atMostOne_nil⟩

/-- A CYCLE that ends before its exchange appends nothing; the others append SCHED's event, then the exchange's. -/
theorem cycle_appends {a : Answer} {s t : State} (h : exec (.cycle a) s = .next t) :
    CycleAppends a s.ctx.events t.ctx.events := by
  rcases execCycle_next h with ⟨_, rfl⟩ | ⟨_, _, rfl⟩ | ⟨_, _, ⟨_, rfl⟩ | ⟨c, hs, he⟩⟩
  · exact .refl a _
  · exact .refl a _
  · exact .refl a _
  · obtain ⟨l1, hsched, htimeout⟩ := sched_appends_timeout hs
    obtain ⟨l3, l4, hexchange, hchecksum, herror⟩ := exchange_appends_in_order he
    rw [State.withCtx_ctx, stamp_events, hsched] at hexchange
    exact ⟨l1, _, l3, l4, hexchange, htimeout, atMostOne_singleton ⟨_, rfl⟩, hchecksum, herror⟩

/-- Settles O29: the sub-steps of a CYCLE append in their own order. -/
theorem cycleEventOrder : Obligations.CycleEventOrder := by
  intro s t a h
  obtain ⟨l1, l2, l3, l4, hevents, ⟨hn1, hk1⟩, ⟨hn2, hk2⟩, ⟨hn3, hk3⟩, ⟨hn4, hk4⟩⟩ := cycle_appends h
  exact ⟨l1, l2, l3, l4, hevents, hn1, hn2, hn3, hn4, hk1, hk2, hk3, hk4⟩

/-! ### The fault of the cursor -/

section

variable {s : State} (hm : s.ctx.marked = false) (hs : sched s.params s.ctx = .error .cursorOutOfRange)
include hm hs

theorem exec_sched_of_fault : exec .sched s = .next (s.raiseFault .cursorOutOfRange) := by
  rw [exec_sched, execSched, unlessMarked_of_unmarked hm, hs]
  rfl

theorem exec_cycle_of_fault (ho : s.ctx.transport = .opened) (a : Answer) :
    exec (.cycle a) s = .next (s.raiseFault .cursorOutOfRange) := by
  rw [exec_cycle, execCycle_of_opened hm ho, hs]
  rfl

end

theorem raiseFault_marked (s : State) (why : FaultReason) : (s.raiseFault why).ctx.marked = true := rfl

/-- Settles O15: SCHED faults on such a cursor before it writes, a CYCLE with it, and the mark refuses what follows. -/
theorem cursorOutOfRangeFaults : Obligations.CursorOutOfRangeFaults := by
  intro s i hm hpos hout hi
  have hs : sched s.params s.ctx = .error .cursorOutOfRange := sched_fault_iff.mpr ⟨hpos.ne', hout⟩
  have hmarked := raiseFault_marked s .cursorOutOfRange
  refine ⟨s.raiseFault .cursorOutOfRange, rfl, ?faults, fun ⟨_, hunmarked⟩ => ?notFinal, fun j => exec_of_marked hmarked⟩
  case faults =>
    rcases hi with rfl | ⟨ho, a, rfl⟩
    · exact exec_sched_of_fault hm hs
    · exact exec_cycle_of_fault hm hs ho a
  case notFinal => exact Bool.false_ne_true (hunmarked.symm.trans hmarked)

/-! ### The refusals -/

/-- R40, R179: an operation keeps the refused mark, or sets it and writes nothing else of the context. -/
theorem exec_refused_mark {s t : State} {i : Instr} (hi : i ≠ .reset) (h : exec i s = .next t) :
    t.ctx.refused = s.ctx.refused ∨ ∃ why, t = s.refuse why := by
  cases exec_effect hi h with
  | refuses why hm => exact .inr ⟨why, rfl⟩
  | schedules c hm hi ha hs =>
    obtain ⟨_, _, _, _, _, hrefused⟩ := sched_keeps hs
    exact .inl hrefused
  | matching r c hm hi ha hr =>
    obtain ⟨_, _, _, _, _, _, hrefused⟩ := matchRec_keeps hr
    exact .inl hrefused
  | cycles a c t hm hi ho hs he =>
    obtain ⟨_, _, _, _, _, hrefused⟩ := sched_keeps hs
    obtain ⟨_, _, _, _, hrefused'⟩ := exchange_keeps he
    exact .inl (hrefused'.trans hrefused)
  | _ => exact .inl rfl

theorem refused_eq_none_of_unmarked {c : Context} (h : c.marked = false) : c.refused = none := by
  have ⟨_, hrefused⟩ : c.fault = none ∧ c.refused = none := by simpa [Context.marked] using h
  exact hrefused

/-- Settles O39: a marked context refuses; on an unmarked one the refused mark comes from a refusal alone. -/
theorem refusalWritesOnlyItsMark : Obligations.RefusalWritesOnlyItsMark := by
  refine fun s i hi => ⟨fun hm => exec_of_marked hm hi, fun t why hm h hwhy => ?_⟩
  rcases exec_refused_mark hi h with hkept | ⟨why', rfl⟩
  · cases (hkept.trans (refused_eq_none_of_unmarked hm)).symm.trans hwhy
  · cases hwhy
    exact h

end Sys2Proof.Machine
end

section
/-!
PROOFS of 70_reset_and_hazards.md: RESET (R200), the table shrunk to or below its cursor (R204), and the answer that a dispatch
meets in its own CYCLE (R207). H.SETCOUNT does not look at the cursor, so that the next SCHED finds it outside the table; and
the exchange keeps the slots, the count and the cursor that SCHED leaves for MATCH.
-/

namespace Sys2Proof.Machine

/-! ### RESET -/

/-- Settles O41: RESET puts the new context in the place of the old one, whatever the state. -/
theorem resetCreatesTheContext : Obligations.ResetCreatesTheContext :=
  fun s => ⟨_, exec_reset s, fun _ => rfl, rfl, rfl, fun _ => rfl, rfl, rfl, rfl, rfl, rfl, rfl, rfl⟩

/-! ### A table shrunk to or below its cursor -/

/-- Settles O44: H.SETCOUNT writes the count alone, and the cursor that it leaves is outside the table. -/
theorem shrinkUnderTheCursorFaults : Obligations.ShrinkUnderTheCursorFaults := by
  intro s n a hm ho hpos hout hcap hfull
  obtain ⟨_, _, hcounts⟩ := setCountWritesCountOnly s n hm
  have hfault := exec_cycle_of_fault (s := (s.withCtx { s.ctx with count := n }).return .ok) hm
    (sched_fault_iff.mpr ⟨hpos.ne', hout⟩) ho a
  exact ⟨_, _, hcounts hcap hfull, rfl, hfault, rfl, rfl⟩

/-! ### An item dispatched and accepted in one CYCLE -/

section

variable (c : Context) (f : List Byte)

@[simp] theorem receive_count : (c.receive f).count = c.count := by rw [Context.receive_eq]

@[simp] theorem receive_cursor : (c.receive f).cursor = c.cursor := by rw [Context.receive_eq]

@[simp] theorem receive_item? (k : Nat) : (c.receive f).item? k = c.item? k := by
  rw [Context.receive_eq]
  rfl

end

@[simp] theorem accepted_cursor (c : Context) (it : Item) (r : SdcRec) :
    (c.accepted it r).cursor = (c.cursor + 1) % c.count := by
  simp [Context.accepted]

/-- R145: the exchange of a valid frame that answers the item at the cursor accepts it. -/
theorem exchange_accepts {s : State} {it : Item} {f : List Byte} (hv : validate f = true)
    (hlt : s.ctx.cursor < s.ctx.count) (hcur : s.ctx.item? s.ctx.cursor = some it)
    (ha : ¬ Discards it (decodeSdc (f.take sdcLen))) :
    exchange (.bytes f) s =
      .next ((s.withCtx ((s.ctx.receive f).accepted it (decodeSdc (f.take sdcLen)))).return .ok) := by
  have hmatch : matchRec (s.ctx.receive f) (decodeSdc (f.take sdcLen)) = .ok ((s.ctx.receive f).accepted it _) :=
    matchRec_accept (by simpa using hlt) (by simpa using hcur) ha
  rw [exchange_of_valid hv, hmatch]
  rfl

/-- R207: a CYCLE accepts the item that it dispatches when its own answer is a response to it. -/
theorem exec_cycle_accepts_dispatch {s : State} {j : Nat} {it : Item} {f : List Byte} (hs : s.CanScan)
    (ho : s.ctx.transport = .opened) (hj : FirstEligible s.ctx j it) (hv : validate f = true)
    (ha : ¬ Discards it (decodeSdc (f.take sdcLen))) :
    exec (.cycle (.bytes f)) s = .next ((s.withCtx (((stamp (dispatch s.ctx j it)).receive f).accepted
      { it with busyCycles := 1, requested := false } (decodeSdc (f.take sdcLen)))).return .ok) := by
  have hslot := (dispatch_item? s.ctx j it j).trans (if_pos rfl)
  rw [exec_cycle, execCycle_of_opened hs.unmarked ho, sched_dispatch hs hj]
  exact exchange_accepts (s := s.withCtx (stamp (dispatch s.ctx j it))) hv hj.lt hslot ha

/-- Settles O30: the context that such a CYCLE leaves, read at its cursor and at the slot it served. -/
theorem sameCycleResponseIsAccepted : Obligations.SameCycleResponseIsAccepted := by
  intro s j it r rest hs ho hj _ hv ha
  have hrec : decodeSdc ((encodeSdc r ++ rest).take sdcLen) = r := decodeSdc_encodeSdc r
  rw [← hrec] at ha
  refine ⟨_, exec_cycle_accepts_dispatch hs ho hj hv ha, rfl, ?cursor, ?slot⟩
  case cursor => simp
  case slot => simp [accepted_item?, hrec]

end Sys2Proof.Machine
end

section
/-!
PROOFS of 20_memory.md: the canonical form of a frame buffer. A buffer in canonical form lists exactly the offsets that do not
read 0x00, each with its byte, and a rising list is determined by what it lists.
-/

namespace Sys2Proof.Machine

section Cells

variable {α : Type}

theorem mem_iff_cellGet {m : List (Nat × α)} (h : Rising m) (k : Nat) (v : α) : (k, v) ∈ m ↔ cellGet k m = some v := by
  refine ⟨fun hmem => ?_, cellGet_mem⟩
  induction m with
  | nil => cases hmem
  | cons c rest ih =>
    rcases List.mem_cons.mp hmem with rfl | hmem
    · exact if_pos rfl
    · exact (if_neg (h.head_lt _ hmem).ne).trans (ih h.tail hmem)

/-- Rising lists with the same cells are the same list. -/
theorem Rising.eq_of_mem_iff {m m' : List (Nat × α)} (h : Rising m) (h' : Rising m') (hmem : ∀ c, c ∈ m ↔ c ∈ m') :
    m = m' := by
  have : Std.Irrefl fun c d : Nat × α => c.1 < d.1 := ⟨fun _ => Nat.lt_irrefl _⟩
  have : Std.Antisymm fun c d : Nat × α => c.1 < d.1 := ⟨fun _ _ hlt hgt => absurd hlt hgt.asymm⟩
  exact List.Pairwise.eq_of_mem_iff (List.pairwise_map.mp h) (List.pairwise_map.mp h') hmem

end Cells

/-- A canonical buffer lists an offset exactly when it does not read 0x00 there, with the byte that it reads. -/
theorem Memory.mem_iff_read {m : Memory} (h : m.wf) (o : Nat) (b : Byte) : (o, b) ∈ m ↔ m.read o = b ∧ b ≠ 0 := by
  constructor
  · intro hmem
    obtain ⟨_, hne⟩ := h.2 _ hmem
    exact ⟨by rw [Memory.read, (mem_iff_cellGet h.1 o b).mp hmem, Option.getD_some], hne⟩
  · rintro ⟨rfl, hne⟩
    rw [mem_iff_cellGet h.1]
    cases hcell : cellGet o m with
    | none => exact absurd (congrArg (·.getD 0) hcell) hne
    | some b => rw [Memory.read, hcell, Option.getD_some]

/-- Settles O59: buffers that read the same list the same cells. -/
theorem equalReadsAreEqualMemory : Obligations.EqualReadsAreEqualMemory := by
  intro m m' h h' hread
  refine h.1.eq_of_mem_iff h'.1 fun (o, b) => ?_
  rw [Memory.mem_iff_read h, Memory.mem_iff_read h', hread]

end Sys2Proof.Machine
end

section
/-!
PROOFS of 30_encoding.md: the sub-frame kinds as the engine steps that they are (log entry 5). An outbound kind completes where
SCHED leaves its record in tx[0..3], retained or dispatched with error bit 0 (R79, R123); an inbound kind is MATCH on its record;
a CYCLE runs both, since STAMP keeps tx[0..3] and the exchange commits the frame before MATCH.
-/

namespace Sys2Proof.Machine

/-! ### The outbound sub-frame that SCHED leaves -/

/-- An outbound sub-frame kind is the SCHED step that sends its record. -/
theorem exec_sends (r : SdcRec) (s : State) : exec (sdcKind .outbound r) s = sendSubframe r s := by
  obtain ⟨v, a, w, e, rsv⟩ := r
  cases e <;> cases w <;> rfl

/-- SCHED and an outbound kind whose record SCHED leaves in tx[0..3] are one step. -/
theorem exec_sends_outboundSdc {s : State} (hm : s.ctx.marked = false) {c : Context}
    (hc : sched s.params s.ctx = .ok c) {r : SdcRec} (hr : c.outboundSdc = r) :
    exec (sdcKind .outbound r) s = .next ((s.withCtx c).return .noValue) := by
  rw [exec_sends, send_eq hm hc, if_pos hr]

theorem outboundSdc_of_encode {c : Context} {r : SdcRec}
    (h : [c.txByte 0, c.txByte 1, c.txByte 2, c.txByte 3] = encodeSdc r) : c.outboundSdc = r := by
  rw [outboundSdc_eq, h, decodeSdc_encodeSdc]

/-- The record of a request for an item, with the reserved bits that byte 3 held before (42_scheduler.md R123). -/
def Item.requestSdc (it : Item) (old : Byte) : SdcRec := ⟨it.value, it.address, it.isWrite, false, old.extractLsb' 6 2⟩

/-- R123: DISPATCH leaves the request for its item in tx[0..3]. -/
theorem outboundSdc_dispatch {c : Context} (h : c.tx.wf) (j : Nat) (it : Item) :
    (dispatch c j it).outboundSdc = it.requestSdc (c.txByte 3) := by
  have hbyte := dispatch_txByte h j it
  refine outboundSdc_of_encode ?_
  rw [hbyte 0, hbyte 1, hbyte 2, hbyte 3, encodeSdc_bytes, byteOf_sdcWord1_zero, byteOf_sdcWord1_one]
  rfl

/-- R120: SCHED retains the outbound frame or dispatches an item. -/
theorem sched_tx {p : Params} {c c' : Context} (h : sched p c = .ok c') :
    c'.tx = c.tx ∨ ∃ j it, c' = dispatch c j it := by
  rcases sched_ok h with ⟨_, rfl⟩ | ⟨_, it, _, ⟨_, rfl⟩ | ⟨_, ⟨j, it', _, rfl⟩ | ⟨_, rfl⟩⟩⟩
  · exact .inl rfl
  · exact .inl (busyStep_tx p c it)
  · exact .inr ⟨j, it', rfl⟩
  · exact .inl rfl

/-! ### Outbound kinds -/

/-- Settles O16: the dispatch leaves the item's request, whose kind is the one of its write bit. -/
theorem dispatchSendsTheRequest : Obligations.DispatchSendsTheRequest := by
  intro s j it hs hw hj
  have hsend := exec_sends_outboundSdc hs.unmarked (sched_dispatch hs hj) (outboundSdc_dispatch hw j it)
  refine ⟨_, exec_sched_dispatch hs hj, rfl, fun hread => ?_, fun hwrite => ?_⟩
  · rwa [Item.requestSdc, hread] at hsend
  · rwa [Item.requestSdc, hwrite] at hsend

/-- R120 to R122: on an empty table, with the cursor's item in flight or with no eligible slot, SCHED retains the outbound
frame and the cursor. -/
theorem sched_retains (p : Params) {c : Context} (h : c.count = 0 ∨ c.cursor < c.count ∧
    ((∃ it, c.item? c.cursor = some it ∧ 0 < it.busyCycles) ∨ NoneEligible c)) :
    ∃ c', sched p c = .ok c' ∧ c'.tx = c.tx ∧ c'.cursor = c.cursor := by
  rcases h with h0 | ⟨hlt, ⟨it, hcur, hb⟩ | hnone⟩
  · exact ⟨c, sched_empty h0, rfl, rfl⟩
  · exact ⟨_, sched_busy hlt hcur hb, by simp, by simp⟩
  · obtain ⟨it, hcur, _⟩ := hnone c.cursor hlt
    rcases Nat.eq_zero_or_pos it.busyCycles with hb | hb
    · exact ⟨c, sched_scan hlt hcur hb (scan_none hnone), rfl, rfl⟩
    · exact ⟨_, sched_busy hlt hcur hb, by simp, by simp⟩

/-- Settles O17: SCHED retains the bytes, which are those of the kind's record. -/
theorem retainedSubframeIsResent : Obligations.RetainedSubframeIsResent := by
  intro s i hm _ h hi
  obtain ⟨r, rfl, hbytes⟩ := encode_eq_some_iff.mp hi
  obtain ⟨c, hc, htx, hcursor⟩ := sched_retains s.params h
  have hkept : ∀ o, c.txByte o = s.ctx.txByte o := fun o => congrArg (Memory.read · o) htx
  refine ⟨_, exec_sched_ok hm hc, exec_sends_outboundSdc hm hc (outboundSdc_of_encode ?_), hkept, hcursor⟩
  simpa only [hkept] using hbytes

/-- R79: SCHED does not set the outbound error bit. -/
theorem sched_outbound_error {p : Params} {c c' : Context} (hw : c.tx.wf) (h : sched p c = .ok c')
    (herror : (c.txByte 3).getLsbD 5 = false) : c'.outboundSdc.error = false := by
  rcases sched_tx h with htx | ⟨j, it, rfl⟩
  · rw [Context.outboundSdc, htx]
    exact (congrArg SdcRec.error (decodeSdc_bytes _ _ _ _)).trans herror
  · rw [outboundSdc_dispatch hw]
    rfl

/-- SCHED completes with its cursor in the table and every slot in use configured. -/
theorem sched_completes (p : Params) {c : Context} (hcfg : c.Configured) (hcur : c.CursorInTable) :
    ∃ c', sched p c = .ok c' := by
  match hs : sched p c with
  | .ok c' => exact ⟨c', rfl⟩
  | .error .emptySlotRead => exact absurd hs (sched_ne_emptySlotRead hcfg p)
  | .error .cursorOutOfRange =>
    obtain ⟨h0, hout⟩ := sched_fault_iff.mp hs
    exact absurd hcur (not_or.mpr ⟨h0, hout.not_gt⟩)

/-- Settles O18: SCHED completes, and the record that it leaves has error bit 0. -/
theorem outErrIsNeverSent : Obligations.OutErrIsNeverSent := by
  intro s v a w r hm hcfg hcur hw herror
  obtain ⟨c, hc⟩ := sched_completes s.params hcfg hcur
  have hother : c.outboundSdc ≠ ⟨v, a, w, true, r⟩ := fun e =>
    Bool.false_ne_true ((sched_outbound_error hw hc herror).symm.trans (congrArg SdcRec.error e))
  exact (send_eq hm hc _).trans (if_neg hother)

/-! ### Inbound kinds -/

/-- An inbound sub-frame kind is the MATCH step of every frame whose first four bytes decode to its record. -/
theorem exec_inbound_eq_match {f : List Byte} {r : SdcRec} (h : decodeSdc (f.take sdcLen) = r) (s : State) :
    exec (sdcKind .inbound r) s = exec (.matchSdc f) s :=
  (exec_receives (.inl rfl)).trans (exec_receives (.inr ⟨f, rfl, h⟩)).symm

/-- MATCH with its cursor in the table runs on the item there (43_matcher.md R130). -/
theorem matchRec_of_item {c : Context} {it : Item} (hlt : c.cursor < c.count) (hcur : c.item? c.cursor = some it)
    (r : SdcRec) : matchRec c r = .ok (matchItem c it r) := by
  simp [matchRec, show ¬ (c.count = 0 ∨ c.count ≤ c.cursor) by omega, hcur]

/-- Settles O22: the frame's first four bytes decode to the kind's record, which MATCH takes where it does not discard it. -/
theorem inboundKindIsItsMatch : Obligations.InboundKindIsItsMatch := by
  intro s i bs rest it hi _ hm hlt hcur
  obtain ⟨r, rfl, rfl⟩ := encode_eq_some_iff.mp hi
  have hrec : decodeSdc ((encodeSdc r ++ rest).take sdcLen) = r := decodeSdc_encodeSdc r
  have hkind : exec (sdcKind .inbound r) s = _ :=
    (exec_receives (.inl rfl)).trans (receive_eq hm (matchRec_of_item hlt hcur r))
  refine ⟨_, hkind, (exec_inbound_eq_match hrec s).symm.trans hkind, fun v a w e rsv hfields hkept => ?_⟩
  obtain rfl : r = ⟨v, a, w, e, rsv⟩ := by
    cases (sdcFields_eq_some_iff.mpr rfl).symm.trans hfields
    rfl
  have haccepted : matchItem s.ctx it ⟨v, a, w, e, rsv⟩ = s.ctx.accepted it _ :=
    Except.ok.inj ((matchRec_of_item hlt hcur _).symm.trans (matchRec_accept hlt hcur hkept))
  rw [haccepted]
  exact (accepted_item? s.ctx it _ _).trans (if_pos rfl)

/-! ### The kinds inside a CYCLE -/

/-- The kind at the head of a whole frame is the one of its first four bytes. -/
theorem decodeSubframe_frame (d : Direction) {f : List Byte} (hf : f.length = nFrame) :
    ∃ rest, decodeSubframe d f = .ok (sdcKind d (decodeSdc (f.take sdcLen)), rest) := by
  match f, hf with
  | b0 :: b1 :: b2 :: b3 :: rest, _ => exact ⟨rest, rfl⟩

/-- STAMP keeps the outbound sub-frame (40_checksum.md R102). -/
theorem outboundSdc_stamp {c : Context} (h : c.tx.wf) : (stamp c).outboundSdc = c.outboundSdc := by
  have hbyte := stamp_txByte h
  rw [outboundSdc_eq, outboundSdc_eq, hbyte 0, hbyte 1, hbyte 2, hbyte 3]
  rfl

/-- R76: the outbound kind at the head of the stamped frame is the SCHED step before it. -/
theorem exec_sends_stamped_frame {s : State} {c : Context} (hm : s.ctx.marked = false) (hw : s.ctx.tx.wf)
    (hc : sched s.params s.ctx = .ok c) : ∃ j tail, decodeSubframe .outbound (stamp c).tx.frame = .ok (j, tail) ∧
      exec j s = .next ((s.withCtx c).return .noValue) := by
  obtain ⟨tail, hdecode⟩ := decodeSubframe_frame .outbound (Memory.length_frame (stamp c).tx)
  have hrec : c.outboundSdc = decodeSdc ((stamp c).tx.frame.take sdcLen) := by
    rw [Memory.take_frame _ (by decide), ← outboundSdc_stamp (sched_wf hw hc), Context.outboundSdc]
  exact ⟨_, tail, hdecode, exec_sends_outboundSdc hm hc hrec⟩

/-- Settles O58: after SCHED and STAMP a CYCLE is its exchange, which records the stamped frame and, for a valid answer, runs
MATCH on the state that has received it. -/
theorem cycleRunsTheSubframesItCarries : Obligations.CycleRunsTheSubframesItCarries := by
  intro s s1 u hm ho hw hsched hm1 hstamp
  have hfront : CycleFront s u := ⟨s1, hsched, hm1, hstamp⟩
  refine ⟨?outbound, fun a t hcycle => ?record, fun f rest i w hf hv hdecode hmatch => ?inbound⟩
  case outbound =>
    obtain ⟨c, hc, _, rfl⟩ := hfront.exists_sched hm
    rw [← hsched, exec_sched_ok hm hc]
    exact exec_sends_stamped_frame hm hw hc
  case record =>
    rw [hfront.exec_cycle_eq hm ho] at hcycle
    obtain ⟨l, m, hevents, _⟩ := exchange_appends_in_order hcycle
    simp [hevents]
  case inbound =>
    obtain ⟨rest', hkind⟩ := decodeSubframe_frame .inbound hf
    cases hkind.symm.trans hdecode
    rw [exec_inbound_eq_match rfl] at hmatch
    obtain ⟨hcycle, _⟩ := cycleSuccess s u w f hm ho hfront hf hv hmatch
    exact hcycle

end Sys2Proof.Machine
end
